-- ==== Sys2Proof/Word.lean ====
section
/-!
DEFINITION. The widths the spec fixes (00_scope.md R10 and R11). Every value is unsigned; nothing in
this block is signed (R11).
-/

namespace Sys2Proof

/-- A command word, and every register of the host port: 32 bits (R30, R90). -/
abbrev Word := BitVec 32

/-- A byte, "the only unit the bus moves" (R10). -/
abbrev Byte := BitVec 8

/-- A 7-bit bus address (R10). -/
abbrev BusAddr := BitVec 7

/-- A 3-bit chip selector (R63). -/
abbrev Selector := BitVec 3

/-- A device index, which is also a latch index and a voice number (R37); also a channel index. -/
abbrev Idx := BitVec 2

/-- A channel value, 12 bits (R10). -/
abbrev ChanValue := BitVec 12

/-- An index of the host register port, `reg_addr[4:0]` (R30). -/
abbrev RegIdx := BitVec 5

end Sys2Proof
end

