-- ==== Sys2Proof/Config.lean ====
section
/-!
DEFINITION. What is fixed at elaboration (00_scope.md R7 to R9) and the free values: the parameter set
of the block, of whose timing only the legality of R9 is known, and the environment's drive of the data wire.
-/

namespace Sys2Proof.Config

/-- R8: `RATIO = floor(CLK_HZ / BUS_HZ)`. -/
def ratioOf (clkHz busHz : Nat) : Nat := clkHz / busHz

/-- R8: `Q = floor(RATIO / DIV)`, the quarter-bit delay in counts. -/
def quarterOf (clkHz busHz div : Nat) : Nat := ratioOf clkHz busHz / div

/-- R8: `H = floor(RATIO / (DIV / 2))`, the half-bit delay in counts. -/
def halfOf (clkHz busHz div : Nat) : Nat := ratioOf clkHz busHz / (div / 2)

/-- R9, with the evenness of DIV that R8 states: the parameter sets the block is defined for. -/
abbrev Legal (clkHz busHz div : Nat) : Prop :=
  0 < busHz ∧ 2 ≤ div ∧ div % 2 = 0 ∧ clkHz > div * busHz ∧ halfOf clkHz busHz div ≤ 65535

/-- R7: the check bits of the readback byte and their required pattern, with R7's defaults. -/
structure CheckBits where
  mask : Byte := 0x11
  value : Byte := 0x10
deriving DecidableEq, Repr, Inhabited

/-- A legal parameter set (R7). A set that breaks R9 cannot be built, which is how this model refuses such
an elaboration. The default values show that a legal set exists (E3 of 95_test_vectors.md) and are
used for nothing else: BUS_HZ and DIV are R7's defaults, the clock is an illustration. -/
structure Params where
  clkHz : Nat := 72000000
  busHz : Nat := 100000
  div : Nat := 20
  legal : Legal clkHz busHz div := by decide
  check : CheckBits := {}
deriving Inhabited

/-- R9: elaboration, refused for an illegal set. Every choice of check bits is taken (U5). -/
def elaborate (clkHz busHz div : Nat) (check : CheckBits := {}) : Option Params :=
  if h : Legal clkHz busHz div then some ⟨clkHz, busHz, div, h, check⟩ else none

/-- The quarter-bit delay of a parameter set. -/
def Params.quarter (p : Params) : Nat := quarterOf p.clkHz p.busHz p.div

/-- The half-bit delay of a parameter set. -/
def Params.half (p : Params) : Nat := halfOf p.clkHz p.busHz p.div

/-- A parameter set of which only the legality is known: `CLK_HZ` is OPEN (92_eei_decisions.md D9), and
BUS_HZ and DIV are left open with it. (Log entry 5.) -/
opaque openParams : Params

/-- The parameters of this block: timing open, the check bits at the defaults that R7 gives. Everything that
reads the check bits takes them as an argument. (Log entries 5 and 6.) -/
def params : Params := { openParams with check := {} }

/-- What the environment drives on the data wire at its n-th draw once no scripted answer is left:
`true` is released. Every answer is a free input (00_scope.md R14, 93_implementation_defined.md U1).
(Log entry 3.) -/
opaque envDrive : Nat → Bool

/-- R34: the constant Q as the 16-bit field of TIMING. -/
def quarter : BitVec 16 := BitVec.ofNat 16 params.quarter

/-- R34: the constant H as the 16-bit field of TIMING. -/
def half : BitVec 16 := BitVec.ofNat 16 params.half

end Sys2Proof.Config
end

