-- ==== Sys2Proof/Syntax.lean ====
section
/-!
DEFINITION. The ten commands of spec/opcode_table.json with their operands at the widths of
30_encoding.md R91, and the command text of R100 and R101 as terms with plain numbers.
-/

namespace Sys2Proof

/-- The four signal roles, in the order of their codes (30_encoding.md R96). -/
inductive Role
  | gate
  | pitch
  | aux1
  | aux2
deriving DecidableEq, Repr

/-- A host command (30_encoding.md R91 and R93), one constructor per row of the opcode table. -/
inductive Instr
  /-- START: `addr`, and `rd = true` for read intent (format A, R150). -/
  | start (addr : BusAddr) (rd : Bool)
  /-- WRITE: one byte (format B, R140). -/
  | write (byte : Byte)
  /-- WRITEL: one byte, and the latch that falls on its last clock edge (format BL, R143). -/
  | writel (byte : Byte) (dev : Idx)
  /-- READ: `ack = true` for "more data expected" (format K, R146). -/
  | read (ack : Bool)
  /-- CHKACK (format N, R144). -/
  | chkack
  /-- STOP (format N, R148). -/
  | stop
  /-- DEVINIT: the device and its target selector (format D, R190). -/
  | devinit (dev : Idx) (sel : Selector)
  /-- SETCH: fields wider than the legal range, so that a bad request can be expressed (format C, R188). -/
  | setch (dev : Idx) (ch : BitVec 4) (value : BitVec 16)
  /-- PINIT (format N, R222). -/
  | pinit
  /-- PSET: voice and value wider than the legal range (format V, R226). -/
  | pset (voice : BitVec 4) (role : Role) (value : BitVec 16)
deriving DecidableEq, Repr

/-- A line of command text after its numbers are read (30_encoding.md R100), the pseudo-commands of
R101 among them. Operands are plain numbers; `Asm.wellFormed` holds them to R100's ranges. -/
inductive Asm
  | start (a : Nat) (rd : Bool)
  | write (b : Nat)
  | writel (b d : Nat)
  | read (ack : Bool)
  | chkack
  | stop
  | devinit (d sel : Nat)
  | setch (d k v : Nat)
  | pinit
  | pset (voice : Nat) (role : Role) (v : Nat)
  /-- RESTART: the word of START, written when a repeated start is meant (R101). -/
  | restart (a : Nat) (rd : Bool)
  /-- WRITEA: WRITE then CHKACK (R101). -/
  | writea (b : Nat)
  /-- PROBE: START with write intent, then STOP (R101). -/
  | probe (a : Nat)
  /-- WAIT: poll STATUS until BUSY = 0 (R101). -/
  | wait
deriving DecidableEq, Repr

end Sys2Proof
end

