-- ==== Sys2Proof/WellFormed.lean ====
section
/-!
DEFINITION. The operand ranges of the command text (30_encoding.md R100), and the form of a command as
text. A term of `Instr` carries its operands at the width of their fields, so it is in range by its
type; `Instr.wellFormed` says so through the text form, and the checks that can fail are those of `Asm`.
-/

namespace Sys2Proof

/-- R100's operand column: the range of every operand of a line of command text. -/
def Asm.wellFormed : Asm → Bool
  | .start a _ => a < 0x80
  | .write b => b < 0x100
  | .writel b d => b < 0x100 && d < 4
  | .read _ => true
  | .chkack => true
  | .stop => true
  | .devinit d sel => d < 4 && sel < 8
  | .setch d k v => d < 4 && k < 16 && v < 0x10000
  | .pinit => true
  | .pset voice _ v => voice < 16 && v < 0x10000
  | .restart a _ => a < 0x80
  | .writea b => b < 0x100
  | .probe a => a < 0x80
  | .wait => true

/-- The text form of a command (R100). -/
def Instr.toAsm : Instr → Asm
  | .start addr rd => .start addr.toNat rd
  | .write byte => .write byte.toNat
  | .writel byte dev => .writel byte.toNat dev.toNat
  | .read ack => .read ack
  | .chkack => .chkack
  | .stop => .stop
  | .devinit dev sel => .devinit dev.toNat sel.toNat
  | .setch dev ch value => .setch dev.toNat ch.toNat value.toNat
  | .pinit => .pinit
  | .pset voice role value => .pset voice.toNat role value.toNat

/-- A command is well formed when its operands lie in the ranges of R100. A legal encoding with an
operand the operation rejects (R95) is well formed: it runs, and ends with REJECT. -/
def Instr.wellFormed (i : Instr) : Bool := i.toAsm.wellFormed

end Sys2Proof
end

