-- ==== Sys2Proof/Decode.lean ====
section
/-!
DEFINITION. The command word: the opcode map of 30_encoding.md R93 as a table of masks and patterns,
the decoder of R92 (total on all words, a rejection has a name), and the encoder written from the
formats of R91. Bit 0 is the least significant bit (R11).
-/

namespace Sys2Proof

/-- R96: the code of a role. -/
def Role.code : Role → BitVec 2
  | .gate => 0
  | .pitch => 1
  | .aux1 => 2
  | .aux2 => 3

/-- R96, read the other way. -/
def Role.ofCode (c : BitVec 2) : Role :=
  if c = 0 then .gate else if c = 1 then .pitch else if c = 2 then .aux1 else .aux2

/-- One row of the opcode map (R93): a word belongs to the row when `w & mask = pattern`, and its
operands are then the fields of the row's format (R91). -/
structure OpcodeRow where
  mnemonic : String
  mask : Word
  pattern : Word
  operands : Word → Instr

/-- R93, the SoftBus rows. -/
def softBusRows : List OpcodeRow := [
  ⟨"START", 0xFFFFFF00, 0x10000000, fun w => .start (w.extractLsb' 1 7) (w.getLsbD 0)⟩,
  ⟨"WRITE", 0xFFFFFF00, 0x20000000, fun w => .write (w.extractLsb' 0 8)⟩,
  ⟨"WRITEL", 0xFFFFFC00, 0x30000000, fun w => .writel (w.extractLsb' 0 8) (w.extractLsb' 8 2)⟩,
  ⟨"READ", 0xFFFFFFFE, 0x40000000, fun w => .read (w.getLsbD 0)⟩,
  ⟨"CHKACK", 0xFFFFFFFF, 0x50000000, fun _ => .chkack⟩,
  ⟨"STOP", 0xFFFFFFFF, 0x60000000, fun _ => .stop⟩]

/-- R93, the DacDevice and DacPanel rows. -/
def compositeRows : List OpcodeRow := [
  ⟨"DEVINIT", 0xFFFFFCF8, 0x80000000, fun w => .devinit (w.extractLsb' 8 2) (w.extractLsb' 0 3)⟩,
  ⟨"SETCH", 0xFFC00000, 0x90000000,
    fun w => .setch (w.extractLsb' 20 2) (w.extractLsb' 16 4) (w.extractLsb' 0 16)⟩,
  ⟨"PINIT", 0xFFFFFFFF, 0xA0000000, fun _ => .pinit⟩,
  ⟨"PSET", 0xFF0C0000, 0xB0000000,
    fun w => .pset (w.extractLsb' 20 4) (Role.ofCode (w.extractLsb' 16 2)) (w.extractLsb' 0 16)⟩]

/-- The opcode map (R93). -/
def opcodeMap : List OpcodeRow := softBusRows ++ compositeRows

/-- Whether a word belongs to a row: `(w & mask) == match` (R92). -/
def OpcodeRow.fits (r : OpcodeRow) (w : Word) : Bool := w &&& r.mask == r.pattern

/-- Why a word is no command (R94). Both kinds complete with `ERR = ILLEGAL` (R244). -/
inductive DecodeReject
  /-- Opcode 0x0, 0x7 or 0xC to 0xF. -/
  | unknownOpcode (opcode : BitVec 4)
  /-- A defined opcode with a 1 in a reserved bit. -/
  | reservedBitSet (mnemonic : String)
deriving DecidableEq, Repr

/-- The opcode field, bits 31 to 28 (R90). -/
def opcodeOf (w : Word) : BitVec 4 := w.extractLsb' 28 4

/-- R92: the row the word belongs to gives the command; a word of no row is rejected by name (R94). -/
def decode (w : Word) : Except DecodeReject Instr :=
  match opcodeMap.find? (·.fits w) with
  | some r => .ok (r.operands w)
  | none =>
    match opcodeMap.find? (fun r => opcodeOf r.pattern == opcodeOf w) with
    | some r => .error (.reservedBitSet r.mnemonic)
    | none => .error (.unknownOpcode (opcodeOf w))

/-- R91: the word of a command, field by field from bit 31 down, reserved bits 0. -/
def encode : Instr → Word
  | .start addr rd => 0x1#4 ++ 0#20 ++ addr ++ BitVec.ofBool rd
  | .write byte => 0x2#4 ++ 0#20 ++ byte
  | .writel byte dev => 0x3#4 ++ 0#18 ++ dev ++ byte
  | .read ack => 0x4#4 ++ 0#27 ++ BitVec.ofBool ack
  | .chkack => 0x5#4 ++ 0#28
  | .stop => 0x6#4 ++ 0#28
  | .devinit dev sel => 0x8#4 ++ 0#18 ++ dev ++ 0#5 ++ sel
  | .setch dev ch value => 0x9#4 ++ 0#6 ++ dev ++ ch ++ value
  | .pinit => 0xA#4 ++ 0#28
  | .pset voice role value => 0xB#4 ++ 0#4 ++ voice ++ 0#2 ++ role.code ++ value

/-- The command read from a word of the opcode table's numbering. Every command is one 32-bit word
(R90), written whole through a port that has no byte order (R68), so the table's number is the word. -/
def decodeTableWord (nbits w : Nat) : Option Instr :=
  if nbits ≤ 32 ∧ w < 2 ^ 32 then (decode (BitVec.ofNat 32 w)).toOption else none

/-- R101: the core commands a line of command text stands for, in order. WAIT stands for none: it is
the host polling STATUS. -/
def Asm.expand : Asm → List Asm
  | .restart a rd => [.start a rd]
  | .writea b => [.write b, .chkack]
  | .probe a => [.start a false, .stop]
  | .wait => []
  | core => [core]

/-- The command of a core line (R100); a pseudo-command has no encoding of its own (R101). -/
def Asm.core : Asm → Option Instr
  | .start a rd => some (.start (BitVec.ofNat 7 a) rd)
  | .write b => some (.write (BitVec.ofNat 8 b))
  | .writel b d => some (.writel (BitVec.ofNat 8 b) (BitVec.ofNat 2 d))
  | .read ack => some (.read ack)
  | .chkack => some .chkack
  | .stop => some .stop
  | .devinit d sel => some (.devinit (BitVec.ofNat 2 d) (BitVec.ofNat 3 sel))
  | .setch d k v => some (.setch (BitVec.ofNat 2 d) (BitVec.ofNat 4 k) (BitVec.ofNat 16 v))
  | .pinit => some .pinit
  | .pset voice role v => some (.pset (BitVec.ofNat 4 voice) role (BitVec.ofNat 16 v))
  | .restart _ _ | .writea _ | .probe _ | .wait => none

/-- The commands of a line, refused when an operand is out of R100's range. -/
def Asm.assemble (a : Asm) : Option (List Instr) :=
  if a.wellFormed then a.expand.mapM Asm.core else none

end Sys2Proof
end

