-- ==== Sys2Proof/Machine/State.lean ====
section
/-!
DEFINITION. The state of the block (10_state.md), as plain data: the pins, STATUS, RDATA, the per-device
registers, the datapath registers, the sequencer position, and the model's own inputs and records
(`Io`). The reset state is 10_state.md R46. There is no memory array (20_memory.md).
-/

namespace Sys2Proof.Machine

/-- The result codes of a command (60_exceptions.md R240). Codes 5 to 7 are never produced, so no
constructor stands for them. -/
inductive ErrCode
  | ok
  | noAck
  | addrMismatch
  | reject
  | illegal
deriving DecidableEq, Repr

/-- The step labels of the sequencer (10_state.md R40): `idle`, `prim` for a primitive command, and the
labels of the step tables: SC0 to SC2 (R188), CW1 to CW9 (R186), DI0 to DI24 (R190), PI0 and PI1 (R222),
PS0 to PS2 (R226). `decode` is the model's own label of a command that is accepted and not yet decoded
(log entry 8). -/
inductive Label
  | idle
  | decode
  | prim
  | sc (n : Fin 3)
  | cw (n : Fin 10)
  | di (n : Fin 25)
  | pi (n : Fin 2)
  | ps (n : Fin 3)
deriving DecidableEq, Repr

/-- The two delay constants, `wait(Q)` and `wait(H)` (40_softbus_primitives.md R132). -/
inductive Delay
  | q
  | h
deriving DecidableEq, Repr

/-- One token of the line trace (00_scope.md R16): a micro-op the engine performed. `reset` is the
model's own token for a reset that moved the pins (log entry 7). -/
inductive LineEvent
  | scl (v : Bool)
  | sda (v : Bool)
  | ldac (d : Idx) (v : Bool)
  | ldacAll
  | sclLdac (d : Idx)
  | wait (d : Delay)
  | sample (b : Bool)
  | reset
deriving DecidableEq, Repr

/-- One token of the byte trace (40_softbus_primitives.md R136). -/
inductive WireEvent
  | start
  | stop
  | wrote (b : Byte)
  | ack
  | nack
  | gotByte (b : Byte) (ack : Bool)
  | latchFell (d : Idx)
  | latchRose (d : Idx)
deriving DecidableEq, Repr

/-- What the host does at the register port and at `rst`, in order (10_state.md R20 and R30). The list
of these is the model's input; `tick` and `wait` say where in the run of a command an access lands
(log entry 2). -/
inductive PortEvent
  /-- `RegWrite(idx, data)`. -/
  | write (idx : RegIdx) (data : Word)
  /-- `RegRead(idx)` in a cycle in which the environment drives the data wire with `env`. -/
  | read (idx : RegIdx) (env : Bool)
  /-- A rising edge of `clk` with `rst = 1`. -/
  | rst
  /-- No access: the engine performs its next micro-op before the host's next access. -/
  | tick
  /-- WAIT of 30_encoding.md R101: the host polls STATUS until BUSY = 0. -/
  | wait
deriving DecidableEq, Repr

/-- The six output pins (R21); `true` is high, for the two bus lines also released (R12). -/
structure Pins where
  scl : Bool
  sda : Bool
  ldac : Vector Bool 4
deriving DecidableEq, Repr

/-- The stored fields of STATUS (R33). BUS_IDLE and VALID are read from other registers. -/
structure Status where
  busy : Bool
  done : Bool
  err : ErrCode
  errDev : Idx
  drop : Bool
deriving DecidableEq, Repr

/-- The per-device registers (R37 and R38). -/
structure Devices where
  addr : Vector BusAddr 4
  valid : Vector Bool 4
  cache : Vector (Vector ChanValue 4) 4
deriving DecidableEq, Repr

/-- The datapath registers (R39). -/
structure Datapath where
  cmdR : Word
  shreg : Byte
  smp : Bool
  dly : BitVec 16
  rb : Byte
  curA : Selector
  kloop : Idx
  dloop : Idx
  opDev : Idx
  opCh : Idx
  opVal : ChanValue
  opAddr : BusAddr
deriving DecidableEq, Repr

/-- The sequencer position (R40), the block's program counter. `cwRet` is the label the channel write
returns to and `diRet` the label DEVINIT's steps return to when PINIT runs them (log entry 8). -/
structure Position where
  mpc : Label
  upc : Nat
  bit : BitVec 3
  cwRet : Label
  diRet : Label
deriving DecidableEq, Repr

/-- The model's own inputs and records: not state of the block (R45). -/
structure Io where
  /-- What the host does next, in order. -/
  port : List PortEvent
  /-- What the host's reads returned, newest first. -/
  reads : List (RegIdx × Word)
  /-- The environment's next drives of the data wire, one per sample (R14). -/
  env : List Bool
  /-- How many drives were drawn after the scripted ones ran out: the counter of the free value. -/
  draws : Nat
  /-- The line trace (R16, R135), newest first. -/
  line : List LineEvent
  /-- The byte trace (R136), newest first. -/
  wire : List WireEvent
deriving DecidableEq, Repr

/-- The whole state of the block, and the model's inputs and records beside it. -/
structure State where
  pins : Pins
  status : Status
  /-- RDATA (R35). -/
  rdata : Byte
  devs : Devices
  path : Datapath
  pos : Position
  io : Io
deriving DecidableEq, Repr

/-- The machine right after reset (R46). The fields of `io` and the two return labels are the model's
own (log entries 8 and 18). -/
def State.reset : State where
  pins := { scl := true, sda := true, ldac := Vector.replicate 4 true }
  status := { busy := false, done := false, err := .ok, errDev := 0, drop := false }
  rdata := 0
  devs := {
    addr := Vector.replicate 4 0
    valid := Vector.replicate 4 false
    cache := Vector.replicate 4 (Vector.replicate 4 0) }
  path := {
    cmdR := 0, shreg := 0, smp := false, dly := 0, rb := 0, curA := 0, kloop := 0, dloop := 0
    opDev := 0, opCh := 0, opVal := 0, opAddr := 0 }
  pos := { mpc := .idle, upc := 0, bit := 0, cwRet := .idle, diRet := .idle }
  io := { port := [], reads := [], env := [], draws := 0, line := [], wire := [] }

/-- The reasons the machine stops with a fault: none. Every way a command of this block ends, an
undecodable word and a rejected operand among them, is a completion with a code in STATUS
(60_exceptions.md R240 to R245), so this type has no constructor. -/
inductive Fault
deriving DecidableEq, Repr

/-- The reasons the model refuses a step. -/
inductive Refusal
  /-- Raised by an arm of `exec` whose instruction has no meaning yet; no arm does. Safe. -/
  | notModelled (mnemonic : String)
deriving DecidableEq, Repr

/-! The seven updates through which everything else changes a state. -/

def State.withPins (s : State) (p : Pins) : State := { s with pins := p }
def State.withStatus (s : State) (st : Status) : State := { s with status := st }
def State.withRdata (s : State) (b : Byte) : State := { s with rdata := b }
def State.withDevs (s : State) (d : Devices) : State := { s with devs := d }
def State.withPath (s : State) (p : Datapath) : State := { s with path := p }
def State.withPos (s : State) (p : Position) : State := { s with pos := p }
def State.withIo (s : State) (io : Io) : State := { s with io := io }

end Sys2Proof.Machine
end

