-- ==== Sys2Proof/Machine/Operands.lean ====
section
/-!
DEFINITION. The bytes the engine puts on the wire and the fields it takes from the readback byte
(20_memory.md R63 to R67, 30_encoding.md R110 to R118, 41_dac_device.md R181 to R184), the role map
(42_dac_panel.md R225), and the bit and vector helpers.
-/

namespace Sys2Proof.Machine

/-! Vectors of four, by a 2-bit index. -/

def vget {α : Type} (v : Vector α 4) (i : Idx) : α := v[i.toNat]'i.isLt
def vset {α : Type} (v : Vector α 4) (i : Idx) (x : α) : Vector α 4 := v.set i.toNat x i.isLt

/-- `v[i] <- b` for a byte (R11). -/
def setBit (v : Byte) (i : BitVec 3) (b : Bool) : Byte :=
  if b then v ||| (1#8 <<< i.toNat) else v &&& ~~~(1#8 <<< i.toNat)

/-! Addresses. -/

/-- R66: the address byte `{addr[6:0], rd}`. -/
def addressByte (addr : BusAddr) (rd : Bool) : Byte := addr ++ BitVec.ofBool rd

/-- R62: the general-call address. -/
def generalCall : BusAddr := 0x00

/-- R63: the device code 0x60 with a selector. -/
def deviceAddr (sel : Selector) : BusAddr := 0x60#7 ||| sel.setWidth 7

/-- R111: the factory-default address, the device code with selector 0. -/
def defaultAddr : BusAddr := 0x60

/-- R222: the selector PINIT asks for on device `d`, `d + 1`. -/
def panelSelector (d : Idx) : Selector := d.setWidth 3 + 1

/-! Command bytes. -/

/-- R110: the discovery command byte. -/
def discoveryByte : Byte := 0x0C

/-- R113: re-addressing byte 0, from the current selector. -/
def readdressByte0 (cur : Selector) : Byte := 0x61#8 ||| (cur.setWidth 8 <<< 2)

/-- R114: re-addressing byte 1, the new selector proposed. -/
def readdressByte1 (new : Selector) : Byte := 0x62#8 ||| (new.setWidth 8 <<< 2)

/-- R115: re-addressing byte 2, the new selector confirmed. -/
def readdressByte2 (new : Selector) : Byte := 0x63#8 ||| (new.setWidth 8 <<< 2)

/-- R116: the channel-write opcode byte. -/
def channelByte0 (k : Idx) : Byte := 0x40#8 ||| (k.setWidth 8 <<< 1)

/-- R117: the channel-write second byte, marker and high nibble. -/
def channelByte1 (v : ChanValue) : Byte := 0x80#8 ||| ((v >>> 8) &&& 0xF#12).setWidth 8

/-- R118: the channel-write third byte, the low byte. -/
def channelByte2 (v : ChanValue) : Byte := (v &&& 0xFF#12).setWidth 8

/-! The readback byte. -/

/-- R183: copy A of the selector, `rb[7:5]`. -/
def copyA (rb : Byte) : Selector := rb.extractLsb' 5 3

/-- R183: copy B of the selector, `rb[3:1]`. -/
def copyB (rb : Byte) : Selector := rb.extractLsb' 1 3

/-- R184: the validation, for any check bits (U5). -/
def readbackValidWith (c : Config.CheckBits) (rb : Byte) : Bool :=
  copyA rb == copyB rb && rb &&& c.mask == c.value

/-- R184: the validation of this block. -/
def readbackValid (rb : Byte) : Bool := readbackValidWith Config.params.check rb

/-! Panel operands. -/

/-- R225: role to channel, `3 - role`. -/
def roleChannel (r : Role) : Idx := 3 - r.code

/-! The range checks of the first step of a command (R243). -/

/-- R243: `ch > 3`. -/
def channelOutOfRange (ch : BitVec 4) : Bool := 3 < ch

/-- R243: `value > 4095`. -/
def valueOutOfRange (value : BitVec 16) : Bool := 4095 < value

/-- R243: `voice > 3`. -/
def voiceOutOfRange (voice : BitVec 4) : Bool := 3 < voice

end Sys2Proof.Machine
end

