-- ==== Sys2Proof/Machine/Flags.lean ====
section
/-!
DEFINITION. The STATUS fields (10_state.md R33), the error codes (60_exceptions.md R240), and what each
register of the host port reads as (10_state.md R31).
-/

namespace Sys2Proof.Machine

/-- R240: the number of an error code in the ERR field. -/
def ErrCode.code : ErrCode → BitVec 3
  | .ok => 0
  | .noAck => 1
  | .addrMismatch => 2
  | .reject => 3
  | .illegal => 4

/-- R33: BUS_IDLE, `scl_o & sda_o`. -/
def State.busIdle (s : State) : Bool := s.pins.scl && s.pins.sda

/-- Four bits with element `d` at bit `d`. -/
def nibble (v : Vector Bool 4) : BitVec 4 :=
  BitVec.ofBool (vget v 3) ++ BitVec.ofBool (vget v 2) ++ BitVec.ofBool (vget v 1) ++ BitVec.ofBool (vget v 0)

/-- R33: the STATUS register. -/
def State.statusWord (s : State) : Word :=
  0#19 ++ nibble s.devs.valid ++ BitVec.ofBool s.busIdle ++ BitVec.ofBool s.status.drop
    ++ s.status.errDev ++ s.status.err.code ++ BitVec.ofBool s.status.done ++ BitVec.ofBool s.status.busy

/-- R34: the TIMING register, H above Q. -/
def timingWord (q h : BitVec 16) : Word := h ++ q

/-- R22: the level of the data wire, the wired-AND of the block's drive and the environment's. -/
def State.sdaIn (s : State) (env : Bool) : Bool := s.pins.sda && env

/-- R36: the LINES register in a cycle in which the environment drives `env`. -/
def State.linesWord (s : State) (env : Bool) : Word :=
  0#24 ++ nibble s.pins.ldac ++ 0#1 ++ BitVec.ofBool (s.sdaIn env)
    ++ BitVec.ofBool s.pins.sda ++ BitVec.ofBool s.pins.scl

/-- R37: the register DEVd, `valid[d]` above `addr[d]`. -/
def State.devWord (s : State) (d : Idx) : Word :=
  0#24 ++ BitVec.ofBool (vget s.devs.valid d) ++ vget s.devs.addr d

/-- R38: the register CACHE[d][k]. -/
def State.cacheWord (s : State) (d k : Idx) : Word := 0#20 ++ vget (vget s.devs.cache d) k

/-- R31: `RegRead(i)`, the register's value in the current cycle; `env` is the environment's drive of the
data wire in that cycle. Indices 5 to 7 and 12 to 15 read 0 (R44). -/
def State.regRead (s : State) (i : RegIdx) (env : Bool) : Word :=
  if 16 ≤ i then s.cacheWord (i.extractLsb' 2 2) (i.extractLsb' 0 2)
  else if 8 ≤ i ∧ i < 12 then s.devWord (i.extractLsb' 0 2)
  else if i = 1 then s.statusWord
  else if i = 2 then 0#24 ++ s.rdata
  else if i = 3 then timingWord Config.quarter Config.half
  else if i = 4 then s.linesWord env
  else 0

end Sys2Proof.Machine
end

