-- ==== Sys2Proof/Machine/Ops.lean ====
section
/-!
DEFINITION. The operations every command is made of: register updates, the host's accesses that land
while a command runs, the micro-ops (40_softbus_primitives.md R131), acceptance (10_state.md R32),
completion (R41), the abort `raise E` (60_exceptions.md R245), and reset (10_state.md R20, R46).

A running command is a value of `Except State State`: `.ok s` is "still running, in state s" and
`.error s` is "the command has ended, in state s", by an abort or by a reset.
-/

namespace Sys2Proof.Machine

/-! Single registers. -/

def State.setScl (v : Bool) (s : State) : State := s.withPins { s.pins with scl := v }
def State.setSda (v : Bool) (s : State) : State := s.withPins { s.pins with sda := v }
def State.setLdac (d : Idx) (v : Bool) (s : State) : State :=
  s.withPins { s.pins with ldac := vset s.pins.ldac d v }
def State.setAllLdac (s : State) : State := s.withPins { s.pins with ldac := Vector.replicate 4 true }
def State.setAddr (d : Idx) (a : BusAddr) (s : State) : State :=
  s.withDevs { s.devs with addr := vset s.devs.addr d a }
def State.setValid (d : Idx) (v : Bool) (s : State) : State :=
  s.withDevs { s.devs with valid := vset s.devs.valid d v }
def State.clearAllValid (s : State) : State := s.withDevs { s.devs with valid := Vector.replicate 4 false }
def State.setCache (d k : Idx) (v : ChanValue) (s : State) : State :=
  s.withDevs { s.devs with cache := vset s.devs.cache d (vset (vget s.devs.cache d) k v) }
def State.setShreg (b : Byte) (s : State) : State := s.withPath { s.path with shreg := b }
def State.setSmp (b : Bool) (s : State) : State := s.withPath { s.path with smp := b }
def State.setDly (n : BitVec 16) (s : State) : State := s.withPath { s.path with dly := n }
def State.setRb (b : Byte) (s : State) : State := s.withPath { s.path with rb := b }
def State.setCurA (a : Selector) (s : State) : State := s.withPath { s.path with curA := a }
def State.setKloop (k : Idx) (s : State) : State := s.withPath { s.path with kloop := k }
def State.setDloop (d : Idx) (s : State) : State := s.withPath { s.path with dloop := d }

/-- SC1 (R188): the operand registers of a validated channel write. -/
def State.setOperands (dev ch : Idx) (v : ChanValue) (a : BusAddr) (s : State) : State :=
  s.withPath { s.path with opDev := dev, opCh := ch, opVal := v, opAddr := a }

/-! The sequencer position (R40). -/

/-- `mpc` moves to a label and `upc <- 0`. -/
def State.goto (l : Label) (s : State) : State := s.withPos { s.pos with mpc := l, upc := 0 }

/-- `upc <- upc + 1`, at the end of a micro-op. -/
def State.nextUop (s : State) : State := s.withPos { s.pos with upc := s.pos.upc + 1 }

/-- The bit index at a byte loop, and the micro-op index of the loop's head. -/
def State.atBit (b : BitVec 3) (head : Nat) (s : State) : State :=
  s.withPos { s.pos with bit := b, upc := head }

def State.setCwRet (l : Label) (s : State) : State := s.withPos { s.pos with cwRet := l }
def State.setDiRet (l : Label) (s : State) : State := s.withPos { s.pos with diRet := l }

/-! The model's inputs and records. -/

def State.setPort (es : List PortEvent) (s : State) : State := s.withIo { s.io with port := es }
def State.logLine (e : LineEvent) (s : State) : State := s.withIo { s.io with line := e :: s.io.line }

/-- The byte-trace tokens of one event, newest first. -/
def State.logWire (es : List WireEvent) (s : State) : State := s.withIo { s.io with wire := es ++ s.io.wire }

/-- The environment's drive at the next sample: the next scripted answer, or a free value (R14, U1). -/
def State.envNext (s : State) : Bool :=
  match s.io.env with
  | b :: _ => b
  | [] => Config.envDrive s.io.draws

/-- The answer is used up. -/
def State.envUsed (s : State) : State :=
  match s.io.env with
  | _ :: bs => s.withIo { s.io with env := bs }
  | [] => s.withIo { s.io with draws := s.io.draws + 1 }

/-! Reset and the register port. -/

/-- A rising edge with `rst = 1` (R20): every register and pin takes its value of R46; nothing is sent on
the bus (R281). The inputs and records of the model stay, and the line trace gets the token of the reset
(log entry 7). -/
def State.hardReset (s : State) : State :=
  State.reset.withIo { s.io with line := .reset :: s.io.line }

/-- A read of the port: its value is recorded, and it has no other effect (R44). -/
def State.portRead (i : RegIdx) (env : Bool) (s : State) : State :=
  s.withIo { s.io with reads := (i, s.regRead i env) :: s.io.reads }

/-- `RegWrite` while BUSY = 1: a write of CMD is dropped and sets DROP (R32); a write of any other index
is ignored (R44). -/
def State.busyWrite (i : RegIdx) (s : State) : State :=
  if i = 0 then s.withStatus { s.status with drop := true } else s

/-- The host's accesses that land before the engine's next action, while BUSY = 1. A `tick` ends them;
a WAIT holds the host until BUSY = 0; a reset ends the command (R282). -/
def serveList : List PortEvent → State → Except State State
  | [], s => .ok (s.setPort [])
  | .tick :: es, s => .ok (s.setPort es)
  | .wait :: es, s => .ok (s.setPort (.wait :: es))
  | .rst :: es, s => .error (s.setPort es).hardReset
  | .write i _ :: es, s => serveList es (s.busyWrite i)
  | .read i env :: es, s => serveList es (s.portRead i env)

/-- The host's turn before each action of the engine (R310 leaves the number of cycles there open). -/
def serve (s : State) : Except State State := serveList s.io.port s

/-! Acceptance, completion, abort. -/

/-- R32: acceptance of a command word. `mpc` moves to the label of a command not yet decoded, and `upc` is 0
from here on, whatever an abort left in it (log entries 8 and 25). -/
def State.accept (w : Word) (s : State) : State :=
  ((s.withStatus { busy := true, done := false, err := .ok, errDev := 0, drop := false }).withPath
    { s.path with cmdR := w }).goto .decode

/-- R41: the command ends in one cycle, with its code and device; `mpc <- IDLE`. -/
def State.endWith (e : ErrCode) (dev : Idx) (s : State) : State :=
  (s.withStatus { s.status with busy := false, done := true, err := e, errDev := dev }).withPos
    { s.pos with mpc := .idle }

/-- R245: `raise E`, the one way a command ends with an error. `dev` is what ERR_DEV records (R246). -/
def raise (e : ErrCode) (dev : Idx) (s : State) : Except State State := do
  let s ← serve s
  .error (s.endWith e dev)

/-- R41: the command ends with success. -/
def State.succeed (s : State) : State := (s.goto .idle).endWith .ok 0

/-- The end of a command: after its last step it completes with success (R41). -/
def complete (s : State) : Except State State := do
  let s ← serve s
  return s.succeed

/-- The state in which a command has ended. -/
def ended : Except State State → State
  | .ok s => s
  | .error s => s

/-- A command that ran its step table: it completes unless it has ended already. -/
def finish (r : Except State State) : Host.Outcome State Fault Refusal := .next (ended (r.bind complete))

/-! Micro-ops. -/

/-- R131: the kinds of micro-op, with the datapath bits they read and write. -/
inductive MicroOp
  /-- `SCL <- v`. -/
  | scl (v : Bool)
  /-- `SDA <- v`. -/
  | sda (v : Bool)
  /-- `SDA <- shreg[bit]` (R140). -/
  | sdaBit
  /-- `LDAC[d] <- v`. -/
  | ldac (d : Idx) (v : Bool)
  /-- `LDAC[0..3] <- 1`, one clock edge (R222). -/
  | ldacAll
  /-- `{SCL <- 0, LDAC[d] <- 0}`, one clock edge (R143). -/
  | sclLdac (d : Idx)
  /-- `smp <- sample()` (R144). -/
  | sampleAck
  /-- `shreg[bit] <- sample()` (R146). -/
  | sampleBit
  /-- `wait(Q)` or `wait(H)` (R132). -/
  | wait (d : Delay)
deriving DecidableEq, Repr

/-- The number of counts of a delay (R8, R34). -/
def Delay.counts : Delay → BitVec 16
  | .q => Config.quarter
  | .h => Config.half

/-- R136: the condition an assignment of the data line makes: with the clock high, a falling data line is
a start condition and a rising one a stop condition. -/
def dataCondition (p : Pins) (v : Bool) : List WireEvent :=
  if p.scl && p.sda != v then [if v then .stop else .start] else []

/-- R136: the edge an assignment of a latch makes, if it changes the pin. -/
def latchEdge (p : Pins) (d : Idx) (v : Bool) : List WireEvent :=
  if vget p.ldac d != v then [if v then .latchRose d else .latchFell d] else []

/-- R131: `SDA <- v`. -/
def State.assignSda (v : Bool) (s : State) : State :=
  ((s.logWire (dataCondition s.pins v)).logLine (.sda v)).setSda v

/-- R131: `LDAC[d] <- v`. -/
def State.assignLdac (d : Idx) (v : Bool) (s : State) : State :=
  ((s.logWire (latchEdge s.pins d v)).logLine (.ldac d v)).setLdac d v

/-- R222: the four latches at one clock edge. The tokens of the latches that rise are recorded in the
order of the devices (log entry 12). -/
def State.assignAllLdac (s : State) : State :=
  ((s.logWire (latchEdge s.pins 3 true ++ latchEdge s.pins 2 true ++ latchEdge s.pins 1 true
    ++ latchEdge s.pins 0 true)).logLine .ldacAll).setAllLdac

/-- R143: the clock and one latch at the same clock edge. -/
def State.assignSclLdac (d : Idx) (s : State) : State :=
  (((s.logWire (latchEdge s.pins d false)).logLine (.sclLdac d)).setLdac d false).setScl false

/-- R134: `sample()`, the level of the data wire in this cycle (R22). -/
def State.sampled (s : State) : Bool := s.sdaIn s.envNext

/-- The sample is taken: its answer is used up and its token recorded. -/
def State.takeSample (s : State) : State := s.envUsed.logLine (.sample s.sampled)

/-- A micro-op that takes one cycle, done. `wait` is not one of them: see `runOp`. -/
def State.perform : MicroOp → State → State
  | .scl v, s => (s.logLine (.scl v)).setScl v
  | .sda v, s => s.assignSda v
  | .sdaBit, s => s.assignSda (s.path.shreg.getLsbD s.pos.bit.toNat)
  | .ldac d v, s => s.assignLdac d v
  | .ldacAll, s => s.assignAllLdac
  | .sclLdac d, s => s.assignSclLdac d
  | .sampleAck, s => s.takeSample.setSmp s.sampled
  | .sampleBit, s => s.takeSample.setShreg (setBit s.path.shreg s.pos.bit s.sampled)
  | .wait d, s => s.logLine (.wait d)

/-- R131 and R132: one micro-op, after which `upc` moves on. A wait loads `dly`, holds `upc` while `dly`
counts down, and ends with `dly = 0`; the host's accesses may land before it and inside it, and how many
cycles it holds is left out (R310; log entry 4). -/
def runOp (m : MicroOp) (s : State) : Except State State := do
  let s ← serve s
  match m with
  | .wait d => do
    let s ← serve (s.setDly d.counts)
    return ((s.setDly 0).perform (.wait d)).nextUop
  | m => return (s.perform m).nextUop

/-- R130: a list of micro-ops, strictly in order. -/
def runOps : List MicroOp → State → Except State State
  | [], s => .ok s
  | m :: ms, s => do
    let s ← runOp m s
    runOps ms s

/-- R40: the bodies of a byte loop from bit `n` down to 0. At the end of a body that is not the last,
`bit` decrements and `upc` returns to the loop's head (log entry 9). -/
def bitsFrom (body : Nat → List MicroOp) (head : Nat) : Nat → State → Except State State
  | 0, s => runOps (body 0) s
  | n + 1, s => do
    let s ← runOps (body (n + 1)) s
    bitsFrom body head n (s.atBit (BitVec.ofNat 3 n) head)

/-- `for bit = 7 downto 0` (R140, R146). -/
def forBits (body : Nat → List MicroOp) (s : State) : Except State State :=
  bitsFrom body s.pos.upc 7 (s.atBit 7 s.pos.upc)

end Sys2Proof.Machine
end

