-- ==== Sys2Proof/Machine/SoftBus.lean ====
section
/-!
DEFINITION. The six SoftBus primitives (40_softbus_primitives.md): their micro-op lists, the internal
procedures the composites call, and the meanings of the six commands. Parameter `who` is the device
index that ERR_DEV records if the acknowledge check fails (60_exceptions.md R246).
-/

namespace Sys2Proof.Machine

/-- R138: `COND_START`. -/
def condStartOps : List MicroOp :=
  [.sda true, .wait .q, .scl true, .wait .h, .sda false, .wait .h, .scl false, .wait .q]

/-- R141: the write cell. -/
def writeCell : List MicroOp :=
  [.sdaBit, .wait .q, .scl true, .wait .h, .scl false, .wait .q, .sda false]

/-- R143: the write cell of bit 0 of a latched write, the latch falling with the clock. -/
def latchCell (dev : Idx) : List MicroOp :=
  [.sdaBit, .wait .q, .scl true, .wait .h, .sclLdac dev, .wait .q, .sda false]

/-- R144: `BusCheckAck`. -/
def checkAckOps : List MicroOp :=
  [.sda true, .wait .q, .scl true, .wait .h, .sampleAck, .scl false, .wait .q, .sda false]

/-- R146: the read cell. -/
def readCell : List MicroOp := [.wait .q, .scl true, .wait .h, .sampleBit, .scl false, .wait .q]

/-- R146, micro-ops 7 to 13: the master's acknowledge cell. The data line is low for an acknowledge. -/
def masterAckCell (ack : Bool) : List MicroOp :=
  [.sda (!ack), .wait .q, .scl true, .wait .h, .scl false, .wait .q, .sda false]

/-- R148: `BusStop`. -/
def stopOps : List MicroOp := [.scl true, .wait .h, .sda true, .wait .h]

/-- R140: `BusWrite(b)`. -/
def busWrite (b : Byte) (s : State) : Except State State := do
  let s ← forBits (fun _ => writeCell) (s.setShreg b)
  return s.logWire [.wrote b]

/-- R143: `BusWriteLatch(b, d)`. -/
def busWriteLatch (b : Byte) (dev : Idx) (s : State) : Except State State := do
  let s ← forBits (fun n => if n = 0 then latchCell dev else writeCell) (s.setShreg b)
  return s.logWire [.wrote b]

/-- R144: `BusCheckAck()`. NO_ACK is raised after the last micro-op, never in the middle (R248). -/
def busCheckAck (who : Idx) (s : State) : Except State State := do
  let s ← runOps checkAckOps s
  if s.path.smp then raise .noAck who (s.logWire [.nack]) else return s.logWire [.ack]

/-- R146: `BusRead(ack)`. The byte is in `shreg`, and in RDATA. -/
def busRead (ack : Bool) (s : State) : Except State State := do
  let s ← runOps [.sda true] s
  let s ← forBits (fun _ => readCell) s
  let s ← runOps (masterAckCell ack) (s.withRdata s.path.shreg)
  return s.logWire [.gotByte s.path.shreg ack]

/-- R148: `BusStop()`. -/
def busStop (s : State) : Except State State := runOps stopOps s

/-- R150: START, the start condition, the address byte and the acknowledge check. -/
def busStart (who : Idx) (addr : BusAddr) (rd : Bool) (s : State) : Except State State := do
  let s ← runOps condStartOps s
  let s ← busWrite (addressByte addr rd) s
  busCheckAck who s

/-- R150, R152: START as a host command. -/
def execStart (addr : BusAddr) (rd : Bool) (s : State) : Host.Outcome State Fault Refusal :=
  finish (busStart 0 addr rd ((s.accept (encode (.start addr rd))).goto .prim))

/-- R140, R152: WRITE as a host command. -/
def execWrite (byte : Byte) (s : State) : Host.Outcome State Fault Refusal :=
  finish (busWrite byte ((s.accept (encode (.write byte))).goto .prim))

/-- R143, R152: WRITEL as a host command. -/
def execWritel (byte : Byte) (dev : Idx) (s : State) : Host.Outcome State Fault Refusal :=
  finish (busWriteLatch byte dev ((s.accept (encode (.writel byte dev))).goto .prim))

/-- R146, R152: READ as a host command. -/
def execRead (ack : Bool) (s : State) : Host.Outcome State Fault Refusal :=
  finish (busRead ack ((s.accept (encode (.read ack))).goto .prim))

/-- R144, R152: CHKACK as a host command. -/
def execChkack (s : State) : Host.Outcome State Fault Refusal :=
  finish (busCheckAck 0 ((s.accept (encode .chkack)).goto .prim))

/-- R148, R152: STOP as a host command. -/
def execStop (s : State) : Host.Outcome State Fault Refusal :=
  finish (busStop ((s.accept (encode .stop)).goto .prim))

end Sys2Proof.Machine
end

