-- ==== Sys2Proof/Machine/DacDevice.lean ====
section
/-!
DEFINITION. The DacDevice commands (41_dac_device.md): the channel write R186, SETCH R188 and DEVINIT
R190, step table by step table. Every failing step names the device for ERR_DEV (60_exceptions.md R246).
-/

namespace Sys2Proof.Machine

/-- R186: `ChannelWrite(d, k, v)`. The caller's label is kept in `cwRet` and is the label again after
CW9 (R40). -/
def channelWrite (d k : Idx) (v : ChanValue) (s : State) : Except State State := do
  let s := s.setCwRet s.pos.mpc
  let s ← busStart d (vget s.devs.addr d) false (s.goto (.cw 1))
  let s ← busWrite (channelByte0 k) (s.goto (.cw 2))
  let s ← busCheckAck d (s.goto (.cw 3))
  let s ← busWrite (channelByte1 v) (s.goto (.cw 4))
  let s ← busCheckAck d (s.goto (.cw 5))
  let s ← busWrite (channelByte2 v) (s.goto (.cw 6))
  let s ← busCheckAck d (s.goto (.cw 7))
  let s ← busStop (s.goto (.cw 8))
  let s ← serve (s.goto (.cw 9))
  return (s.setCache d k v).goto s.pos.cwRet

/-- R188: whether SC0 rejects. All checks are made together, before any micro-op (R243). -/
def setchRejects (dev : Idx) (ch : BitVec 4) (value : BitVec 16) (s : State) : Bool :=
  channelOutOfRange ch || valueOutOfRange value || !vget s.devs.valid dev

/-- R188: steps SC0 to SC2, which PSET runs too. -/
def setchSteps (dev : Idx) (ch : BitVec 4) (value : BitVec 16) (s : State) : Except State State := do
  let s := s.goto (.sc 0)
  if setchRejects dev ch value s then raise .reject dev s else
    let s ← serve (s.goto (.sc 1))
    let s := s.setOperands dev (ch.setWidth 2) (value.setWidth 12) (vget s.devs.addr dev)
    channelWrite s.path.opDev s.path.opCh s.path.opVal (s.goto (.sc 2))

/-- R188: SETCH. -/
def execSetch (dev : Idx) (ch : BitVec 4) (value : BitVec 16) (s : State) :
    Host.Outcome State Fault Refusal :=
  finish (setchSteps dev ch value (s.accept (encode (.setch dev ch value))))

/-- `LDAC[d] <- v` as a step of DEVINIT. -/
def latch (d : Idx) (v : Bool) (s : State) : Except State State := runOps [.ldac d v] s

/-- R190, DI2 to DI8: discovery. The readback byte is in `rb` afterwards. -/
def discover (dev : Idx) (s : State) : Except State State := do
  let s ← busStart dev generalCall false (s.goto (.di 2))
  let s ← busWriteLatch discoveryByte dev (s.goto (.di 3))
  let s ← busCheckAck dev (s.goto (.di 4))
  let s ← busStart dev defaultAddr true (s.goto (.di 5))
  let s ← busRead false (s.goto (.di 6))
  let s ← busStop ((s.setRb s.path.shreg).goto (.di 7))
  latch dev true (s.goto (.di 8))

/-- R190, DI9: decode and validate the readback byte, under the check bits `c` (R7, U5). -/
def validate (c : Config.CheckBits) (dev : Idx) (s : State) : Except State State := do
  let s := s.goto (.di 9)
  if readbackValidWith c s.path.rb then
    let s ← serve s
    return s.setCurA (copyA s.path.rb)
  else raise .addrMismatch dev s

/-- R190, DI11 to DI18: re-addressing, at the current address, with the new selector sent twice (R193).
In DI18 `upc` goes on behind the stop to the latch (log entry 30). -/
def readdress (dev : Idx) (sel : Selector) (s : State) : Except State State := do
  let s ← busStart dev (deviceAddr s.path.curA) false (s.goto (.di 11))
  let s ← busWriteLatch (readdressByte0 s.path.curA) dev (s.goto (.di 12))
  let s ← busCheckAck dev (s.goto (.di 13))
  let s ← busWrite (readdressByte1 sel) (s.goto (.di 14))
  let s ← busCheckAck dev (s.goto (.di 15))
  let s ← busWrite (readdressByte2 sel) (s.goto (.di 16))
  let s ← busCheckAck dev (s.goto (.di 17))
  let s ← busStop (s.goto (.di 18))
  latch dev true s

/-- R190, DI10: the re-addressing steps are skipped when the chip already has the selector. -/
def readdressIfNeeded (dev : Idx) (sel : Selector) (s : State) : Except State State := do
  let s ← serve (s.goto (.di 10))
  if s.path.curA = sel then return s else readdress dev sel s

/-- R190, one turn of DI20: channel `k` of the device is set to 0. -/
def zeroChannel (dev k : Idx) (s : State) : Except State State :=
  channelWrite dev k 0 ((s.goto (.di 20)).setKloop k)

/-- R190, DI20: the four channels, in the order 0, 1, 2, 3 (R194). `kloop` is 3 afterwards (log entry 27). -/
def zeroChannels (dev : Idx) (s : State) : Except State State := do
  let s ← zeroChannel dev 0 s
  let s ← zeroChannel dev 1 s
  let s ← zeroChannel dev 2 s
  zeroChannel dev 3 s

/-- R190, DI21 to DI23: one low pulse of `wait(H)` on the latch. -/
def commitPulse (dev : Idx) (s : State) : Except State State := do
  let s ← latch dev false (s.goto (.di 21))
  let s ← runOps [.wait .h] (s.goto (.di 22))
  latch dev true (s.goto (.di 23))

/-- R190, DI1 to DI24, which PINIT runs too: the device is constructed at selector `sel`. -/
def constructDevice (c : Config.CheckBits) (dev : Idx) (sel : Selector) (s : State) : Except State State := do
  let s ← latch dev true (s.goto (.di 1))
  let s ← discover dev s
  let s ← validate c dev s
  let s ← readdressIfNeeded dev sel s
  let s ← serve (s.goto (.di 19))
  let s ← zeroChannels dev (s.setAddr dev (deviceAddr sel))
  let s ← commitPulse dev s
  let s ← serve (s.goto (.di 24))
  return s.setValid dev true

/-- R190: DEVINIT's steps. DI0 rejects selector 0 and otherwise clears `valid[dev]`. -/
def devinitSteps (c : Config.CheckBits) (dev : Idx) (sel : Selector) (s : State) : Except State State := do
  let s := s.goto (.di 0)
  if sel = 0 then raise .reject dev s else
    let s ← serve s
    constructDevice c dev sel (s.setValid dev false)

/-- R190: DEVINIT of a block with the check bits `c`. -/
def devinitWith (c : Config.CheckBits) (dev : Idx) (sel : Selector) (s : State) :
    Host.Outcome State Fault Refusal :=
  finish (devinitSteps c dev sel (s.accept (encode (.devinit dev sel))))

/-- R190: DEVINIT. -/
def execDevinit (dev : Idx) (sel : Selector) (s : State) : Host.Outcome State Fault Refusal :=
  devinitWith Config.params.check dev sel s

end Sys2Proof.Machine
end

