-- ==== Sys2Proof/Machine/DacPanel.lean ====
section
/-!
DEFINITION. The DacPanel commands (42_dac_panel.md): PINIT R222 and PSET R226.
-/

namespace Sys2Proof.Machine

/-- R222, one turn of PI1: device `d` is constructed at selector `d + 1`. `dloop` keeps the index of the last
turn (log entry 27). -/
def panelDevice (c : Config.CheckBits) (d : Idx) (s : State) : Except State State := do
  let s ← constructDevice c d (panelSelector d) (((s.goto (.pi 1)).setDiRet (.pi 1)).setDloop d)
  return s.goto s.pos.diRet

/-- R222: PI0, the four latches high and no device valid; then PI1, the devices in the order 0 to 3. -/
def pinitSteps (c : Config.CheckBits) (s : State) : Except State State := do
  let s ← runOps [.ldacAll] (s.goto (.pi 0))
  let s ← panelDevice c 0 s.clearAllValid
  let s ← panelDevice c 1 s
  let s ← panelDevice c 2 s
  panelDevice c 3 s

/-- R222: PINIT of a block with the check bits `c`. -/
def pinitWith (c : Config.CheckBits) (s : State) : Host.Outcome State Fault Refusal :=
  finish (pinitSteps c (s.accept (encode .pinit)))

/-- R222: PINIT. -/
def execPinit (s : State) : Host.Outcome State Fault Refusal := pinitWith Config.params.check s

/-- R226: PS0 rejects a voice above 3, with ERR_DEV 0; PS1 maps voice and role; PS2 is SETCH's steps. -/
def psetSteps (voice : BitVec 4) (role : Role) (value : BitVec 16) (s : State) : Except State State := do
  let s := s.goto (.ps 0)
  if voiceOutOfRange voice then raise .reject 0 s else
    let s ← serve (s.goto (.ps 1))
    setchSteps (voice.setWidth 2) ((roleChannel role).setWidth 4) value (s.goto (.ps 2))

/-- R226: PSET. -/
def execPset (voice : BitVec 4) (role : Role) (value : BitVec 16) (s : State) :
    Host.Outcome State Fault Refusal :=
  finish (psetSteps voice role value (s.accept (encode (.pset voice role value))))

end Sys2Proof.Machine
end

