-- ==== Sys2Proof/Machine/Dispatch.lean ====
section
/-!
DEFINITION. `exec`: one arm per command, each one direct call of its meaning.
-/

namespace Sys2Proof.Machine

def exec (i : Instr) (s : State) : Host.Outcome State Fault Refusal :=
  match i with
  | .start addr rd => Sys2Proof.Machine.execStart addr rd s
  | .write byte => Sys2Proof.Machine.execWrite byte s
  | .writel byte dev => Sys2Proof.Machine.execWritel byte dev s
  | .read ack => Sys2Proof.Machine.execRead ack s
  | .chkack => Sys2Proof.Machine.execChkack s
  | .stop => Sys2Proof.Machine.execStop s
  | .devinit dev sel => Sys2Proof.Machine.execDevinit dev sel s
  | .setch dev ch value => Sys2Proof.Machine.execSetch dev ch value s
  | .pinit => Sys2Proof.Machine.execPinit s
  | .pset voice role value => Sys2Proof.Machine.execPset voice role value s

end Sys2Proof.Machine
end

