-- ==== Sys2Proof/Machine/Engine.lean ====
section
/-!
DEFINITION. The engine as its sequencer position drives it (10_state.md R40): what one action of the engine does in
a state inside a command. The micro-op lists, the bytes and the checks are those of the commands' step tables; here
`mpc`, `upc`, `bit` and the return labels say which of them is next. An action is one micro-op with the register
updates up to the next turn of the host, one register step, or the end of the command; a wait is two actions, the
load of `dly` and its end (log entries 4 and 22).
-/

namespace Sys2Proof.Machine

/-! One primitive. -/

/-- What a step performs: a primitive of 40_softbus_primitives.md, or a plain list of micro-ops. -/
inductive Prim
  | ops (ms : List MicroOp)
  | start (address : Byte)
  | write (b : Byte)
  | writeLatch (b : Byte) (dev : Idx)
  | checkAck
  | read (ack : Bool)
deriving DecidableEq, Repr

/-- The micro-ops before the byte loop. -/
def Prim.before : Prim → List MicroOp
  | .ops ms => ms
  | .start _ => condStartOps
  | .write _ | .writeLatch _ _ => []
  | .checkAck => checkAckOps
  | .read _ => [.sda true]

/-- The body of the byte loop for bit `n`; no micro-op where there is no loop. -/
def Prim.body : Prim → Nat → List MicroOp
  | .ops _, _ | .checkAck, _ => []
  | .start _, _ | .write _, _ => writeCell
  | .writeLatch _ dev, n => if n = 0 then latchCell dev else writeCell
  | .read _, _ => readCell

/-- The micro-ops after the byte loop. -/
def Prim.after : Prim → List MicroOp
  | .start _ => checkAckOps
  | .read ack => masterAckCell ack
  | .ops _ | .write _ | .writeLatch _ _ | .checkAck => []

/-- The index of the loop's head. -/
def Prim.head (p : Prim) : Nat := p.before.length

/-- The index behind the loop's body. -/
def Prim.tail (p : Prim) : Nat := p.head + (p.body 0).length

/-- The index behind the primitive's last micro-op. -/
def Prim.size (p : Prim) : Nat := p.tail + p.after.length

/-- Whether the primitive ends with an acknowledge check (R144, R150). -/
def Prim.checks : Prim → Bool
  | .start _ | .checkAck => true
  | .ops _ | .write _ | .writeLatch _ _ | .read _ => false

/-- R40: the micro-op at a position; none behind the last one. -/
def Prim.op (p : Prim) (pos : Position) : Option MicroOp :=
  (p.before ++ p.body pos.bit.toNat ++ p.after)[pos.upc]?

/-- The byte loop begins: the byte is in `shreg` and the bit index at 7 (R140, R146). -/
def Prim.enterLoop (p : Prim) (s : State) : State :=
  match p with
  | .start b | .write b | .writeLatch b _ => (s.setShreg b).atBit 7 p.head
  | .read _ => s.atBit 7 p.head
  | .ops _ | .checkAck => s

/-- The byte loop has ended. -/
def Prim.leaveLoop (p : Prim) (s : State) : State :=
  match p with
  | .start b | .write b | .writeLatch b _ => s.logWire [.wrote b]
  | .read _ => s.withRdata s.path.shreg
  | .ops _ | .checkAck => s

/-- The primitive has ended: the token of its acknowledge check or of the byte read (R136). -/
def Prim.close (p : Prim) (s : State) : State :=
  match p with
  | .start _ | .checkAck => s.logWire [if s.path.smp then .nack else .ack]
  | .read ack => s.logWire [.gotByte s.path.shreg ack]
  | .ops _ | .write _ | .writeLatch _ _ => s

/-- R40: where the position goes when a micro-op has ended and `upc` has moved on. -/
def Prim.advance (p : Prim) (s : State) : State :=
  if p.head = p.tail then s
  else if s.pos.upc = p.head then p.enterLoop s
  else if s.pos.upc = p.tail then
    if s.pos.bit = 0 then p.leaveLoop s else s.atBit (s.pos.bit - 1) p.head
  else s

/-- The same, and the primitive's end when that was its last micro-op. -/
def Prim.settle (p : Prim) (s : State) : State :=
  let s := p.advance s
  if s.pos.upc = p.size then p.close s else s

/-! The step tables. -/

/-- The device a command works on: its operand, the voice of PSET, `dloop` in PINIT. -/
def deviceOf (i : Instr) (s : State) : Idx :=
  match i with
  | .devinit dev _ | .setch dev _ _ => dev
  | .pset voice _ _ => voice.setWidth 2
  | .pinit => s.path.dloop
  | .start _ _ | .write _ | .writel _ _ | .read _ | .chkack | .stop => 0

/-- The target selector: the operand of DEVINIT, `dloop + 1` in PINIT. -/
def selectorOf (i : Instr) (s : State) : Selector :=
  match i with
  | .devinit _ sel => sel
  | .pinit => panelSelector s.path.dloop
  | .setch _ _ _ | .pset _ _ _ | .start _ _ | .write _ | .writel _ _ | .read _ | .chkack | .stop => 0

/-- Device, channel and value of the running channel write: a zeroing write when it returns to DI20, and the
operand registers otherwise. -/
def channelOf (i : Instr) (s : State) : Idx × Idx × ChanValue :=
  if s.pos.cwRet = .di 20 then (deviceOf i s, s.path.kloop, 0) else (s.path.opDev, s.path.opCh, s.path.opVal)

/-- R152: the primitive of a primitive command. -/
def primitiveOf : Instr → Option Prim
  | .start addr rd => some (.start (addressByte addr rd))
  | .write b => some (.write b)
  | .writel b dev => some (.writeLatch b dev)
  | .read ack => some (.read ack)
  | .chkack => some .checkAck
  | .stop => some (.ops stopOps)
  | .devinit _ _ | .setch _ _ _ | .pinit | .pset _ _ _ => none

/-- R186: the primitive of a step of the channel write; CW9 has none. -/
def channelPrim (dev k : Idx) (v : ChanValue) (s : State) : Nat → Option Prim
  | 1 => some (.start (addressByte (vget s.devs.addr dev) false))
  | 2 => some (.write (channelByte0 k))
  | 4 => some (.write (channelByte1 v))
  | 6 => some (.write (channelByte2 v))
  | 3 | 5 | 7 => some .checkAck
  | 8 => some (.ops stopOps)
  | _ => none

/-- R190: the primitive of a step of DEVINIT; DI0, DI9, DI10, DI19, DI20 and DI24 have none.
DI18 is one list, the stop and the latch behind it (log entry 30). -/
def devinitPrim (dev : Idx) (sel : Selector) (s : State) : Nat → Option Prim
  | 1 | 8 | 23 => some (.ops [.ldac dev true])
  | 2 => some (.start (addressByte generalCall false))
  | 3 => some (.writeLatch discoveryByte dev)
  | 5 => some (.start (addressByte defaultAddr true))
  | 6 => some (.read false)
  | 7 => some (.ops stopOps)
  | 11 => some (.start (addressByte (deviceAddr s.path.curA) false))
  | 12 => some (.writeLatch (readdressByte0 s.path.curA) dev)
  | 14 => some (.write (readdressByte1 sel))
  | 16 => some (.write (readdressByte2 sel))
  | 4 | 13 | 15 | 17 => some .checkAck
  | 18 => some (.ops (stopOps ++ [.ldac dev true]))
  | 21 => some (.ops [.ldac dev false])
  | 22 => some (.ops [.wait .h])
  | _ => none

/-- The primitive of the step at `mpc`; none for a step that only updates registers. -/
def primOf (i : Instr) (s : State) : Option Prim :=
  match s.pos.mpc with
  | .prim => primitiveOf i
  | .cw n => channelPrim (channelOf i s).1 (channelOf i s).2.1 (channelOf i s).2.2 s n.val
  | .di n => devinitPrim (deviceOf i s) (selectorOf i s) s n.val
  | .pi n => if n = 0 then some (.ops [.ldacAll]) else none
  | .idle | .decode | .sc _ | .ps _ => none

/-- The device that ERR_DEV records when the check of the step at `mpc` fails (R246). -/
def failingDevice (i : Instr) (s : State) : Idx :=
  match s.pos.mpc with
  | .cw _ => (channelOf i s).1
  | .di _ | .pi _ => deviceOf i s
  | .idle | .decode | .prim | .sc _ | .ps _ => 0

/-- `mpc` moves to a step, whose byte loop begins at once if nothing stands before it. -/
def beginStep (i : Instr) (l : Label) (s : State) : State :=
  let s := s.goto l
  match primOf i s with
  | some p => if p.head = 0 then p.enterLoop s else s
  | none => s

/-- R186: the channel write begins, and returns to the label it is called at. -/
def beginChannelWrite (i : Instr) (s : State) : State := beginStep i (.cw 1) (s.setCwRet s.pos.mpc)

/-- R190, DI20: the zeroing write of channel `k` begins. -/
def beginZeroing (i : Instr) (k : Idx) (s : State) : State :=
  beginChannelWrite i ((s.goto (.di 20)).setKloop k)

/-- R222, PI1: the construction of device `d` begins. -/
def beginPanelDevice (i : Instr) (d : Idx) (s : State) : State :=
  beginStep i (.di 1) (((s.goto (.pi 1)).setDiRet (.pi 1)).setDloop d)

/-- R188: SETCH's steps begin. A request that SC0 rejects stays at SC0 until its end. -/
def beginSetch (dev : Idx) (ch : BitVec 4) (value : BitVec 16) (s : State) : State :=
  let s := s.goto (.sc 0)
  if setchRejects dev ch value s then s else s.goto (.sc 1)

/-- The operands of SETCH's steps: those of SETCH, or what PS1 maps PSET's to (R226). -/
def setchOperands : Instr → Option (Idx × BitVec 4 × BitVec 16)
  | .setch dev ch value => some (dev, ch, value)
  | .pset voice role value => some (voice.setWidth 2, (roleChannel role).setWidth 4, value)
  | .start _ _ | .write _ | .writel _ _ | .read _ | .chkack | .stop | .devinit _ _ | .pinit => none

/-- A decoded command begins. -/
def beginCommand (i : Instr) (s : State) : State :=
  match i with
  | .start _ _ | .write _ | .writel _ _ | .read _ | .chkack | .stop => beginStep i .prim s
  | .devinit _ _ => s.goto (.di 0)
  | .setch dev ch value => beginSetch dev ch value s
  | .pinit => s.goto (.pi 0)
  | .pset voice _ _ => if voiceOutOfRange voice then s.goto (.ps 0) else s.goto (.ps 1)

/-- R40: the step at `mpc` has ended; the next one of its table begins. A primitive command waits for its end. -/
def moveOn (i : Instr) (s : State) : State :=
  match s.pos.mpc with
  | .cw n => beginStep i (.cw (n + 1)) s
  | .di n => beginStep i (.di (n + 1)) (if n = 6 then s.setRb s.path.shreg else s)
  | .pi _ => beginPanelDevice i 0 s.clearAllValid
  | .idle | .decode | .prim | .sc _ | .ps _ => s

/-- R190, DI20: after a zeroing write, the next channel's, or DI21. -/
def afterZeroing (i : Instr) (s : State) : State :=
  if s.path.kloop = 3 then beginStep i (.di 21) s else beginZeroing i (s.path.kloop + 1) s

/-- R190: the steps of DEVINIT that only update registers. In PINIT, DI24 returns to PI1 for the next device. -/
def devinitUpdate (i : Instr) (s : State) (n : Nat) : State :=
  let dev := deviceOf i s
  let sel := selectorOf i s
  match n with
  | 0 => if sel = 0 then s.endWith .reject dev else beginStep i (.di 1) (s.setValid dev false)
  | 9 =>
    if readbackValid s.path.rb then (s.setCurA (copyA s.path.rb)).goto (.di 10) else s.endWith .addrMismatch dev
  | 10 => if s.path.curA = sel then s.goto (.di 19) else beginStep i (.di 11) s
  | 19 => beginZeroing i 0 (s.setAddr dev (deviceAddr sel))
  | 20 => afterZeroing i s
  | _ =>
    if vget s.devs.valid dev then s.succeed
    else if i = .pinit then
      let s := (s.setValid dev true).goto s.pos.diRet
      if dev = 3 then s else beginPanelDevice i (dev + 1) s
    else s.setValid dev true

/-- A step of `mpc` that has no primitive: a register update, or the end of the command. At `idle` no command
runs (R40), and the engine does nothing. -/
def updateStep (i : Instr) (s : State) : State :=
  match s.pos.mpc with
  | .idle | .decode => s
  | .prim | .pi _ => s.succeed
  | .sc n =>
    match setchOperands i with
    | none => s.succeed
    | some (dev, ch, value) =>
      if n = 2 then s.succeed
      else if n = 0 ∧ setchRejects dev ch value s then s.endWith .reject dev
      else beginChannelWrite i
        ((s.setOperands dev (ch.setWidth 2) (value.setWidth 12) (vget s.devs.addr dev)).goto (.sc 2))
  | .cw _ =>
    let s := (s.setCache (channelOf i s).1 (channelOf i s).2.1 (channelOf i s).2.2).goto s.pos.cwRet
    if s.pos.mpc = .di 20 then afterZeroing i s else s
  | .di n => devinitUpdate i s n.val
  | .ps n =>
    match i, setchOperands i with
    | .pset voice _ _, some (dev, ch, value) =>
      if n = 0 ∧ voiceOutOfRange voice then s.endWith .reject 0 else beginSetch dev ch value (s.goto (.ps 2))
    | _, _ => s.succeed

/-- A micro-op of the step at `mpc` has ended, and was its last unless `upc` says otherwise. A check that failed
leaves the position behind its last micro-op, where the command is aborted. -/
def settleStep (i : Instr) (p : Prim) (s : State) : State :=
  let s := p.settle s
  if s.pos.upc = p.size ∧ ¬(p.checks ∧ s.path.smp) then moveOn i s else s

/-- One micro-op of the step at `mpc`. A wait loads `dly` in one action and ends in the next (R132). -/
def microOpTurn (i : Instr) (p : Prim) (m : MicroOp) (s : State) : State :=
  match m with
  | .wait d =>
    if s.path.dly = 0 then s.setDly d.counts else settleStep i p (((s.setDly 0).perform (.wait d)).nextUop)
  | m => settleStep i p (s.perform m).nextUop

/-- One action of a running command: its next micro-op, the abort of a check that failed, a register step, or its
end. -/
def engineAct (i : Instr) (s : State) : State :=
  match primOf i s with
  | none => updateStep i s
  | some p =>
    match p.op s.pos with
    | some m => microOpTurn i p m s
    | none =>
      if p.checks ∧ s.path.smp then s.endWith .noAck (failingDevice i s)
      else if s.pos.mpc = .prim then s.succeed
      else moveOn i s

/-- One action of the engine in a state with BUSY = 1. The command is the one in `cmd_r` (20_memory.md R74); an
accepted word is decoded in the action of its first step, and one that does not decode ends with ILLEGAL (R244).
Positions that no command reaches are run by the same tables (log entry 28). -/
def State.engineTurn (s : State) : State :=
  match decode s.path.cmdR with
  | .error _ => s.endWith .illegal 0
  | .ok i => engineAct i (if s.pos.mpc = .decode then beginCommand i s else s)

end Sys2Proof.Machine
end

