-- ==== Sys2Proof/Machine/Illegal.lean ====
section
/-!
DEFINITION. The command word that matches no row of the opcode map (60_exceptions.md R244).
-/

namespace Sys2Proof.Machine

/-- R244: the word is accepted like any other, performs no micro-op, and completes with ILLEGAL. -/
def illegalCommand (w : Word) (s : State) : Host.Outcome State Fault Refusal :=
  finish (raise .illegal 0 (s.accept w))

end Sys2Proof.Machine
end

