-- ==== Sys2Proof/Machine/Step.lean ====
section
/-!
DEFINITION. One step of the machine: the host's next action at the port. A write of CMD while BUSY = 0 runs its
command from acceptance to completion, with the host's accesses that land meanwhile; from a state inside a command
a step is one access of the host or one action of the engine.
-/

namespace Sys2Proof.Machine

/-- R32, R92: a CMD write while BUSY = 0. -/
def runCommand (w : Word) (s : State) : Host.Outcome State Fault Refusal :=
  match decode w with
  | .ok i => exec i s
  | .error _ => illegalCommand w s

/-- A step from a state with BUSY = 1: the host's next access acts as R32, R44 and R282 say; when the host does
nothing, lets the engine go on, or polls, the engine performs its next action (R40). -/
def busyStep (s : State) : Host.Outcome State Fault Refusal :=
  match s.io.port with
  | .write i _ :: es => .next ((s.setPort es).busyWrite i)
  | .read i env :: es => .next ((s.setPort es).portRead i env)
  | .rst :: es => .next (s.setPort es).hardReset
  | .tick :: es => .next (s.setPort es).engineTurn
  | .wait :: _ => .next s.engineTurn
  | [] => .next s.engineTurn

/-- A step from a state with BUSY = 0: the host's next action at the port. With nothing on the port the machine
does nothing: "the engine does nothing until the host writes CMD" (70_reset_and_hazards.md R280). -/
def idleStep (s : State) : Host.Outcome State Fault Refusal :=
  match s.io.port with
  | [] => .next s
  | .tick :: es => .next (s.setPort es)
  | .wait :: es => .next (s.setPort es)
  | .rst :: es => .next (s.setPort es).hardReset
  | .read i env :: es => .next ((s.setPort es).portRead i env)
  | .write i w :: es => if i = 0 then runCommand w (s.setPort es) else .next (s.setPort es)

/-- One step (log entry 1). -/
def step (s : State) : Host.Outcome State Fault Refusal := if s.status.busy then busyStep s else idleStep s

/-- The state whose next step runs the command word `w`: the host's next action is to write it to CMD,
and the engine is idle. A word arrives by a write, not from an address (20_memory.md R77; log entry 19). -/
def State.withFetchWord (s : State) (_nbits w : Nat) : State :=
  ((s.setPort (.write 0 (BitVec.ofNat 32 w) :: s.io.port)).withStatus { s.status with busy := false }).withPos
    { s.pos with mpc := .idle }

end Sys2Proof.Machine
end

