-- ==== Sys2Proof/Machine/Assembler.lean ====
section
/-!
DEFINITION. The text form of a command (30_encoding.md R100, R101): a line of characters, mnemonic then
operands separated by commas, numbers decimal or `0x` hexadecimal; and the host that runs a list of lines on
the machine.
-/

namespace Sys2Proof.Machine

/-- Spaces at the front are dropped. -/
def dropSpaces : List Char → List Char
  | [] => []
  | c :: cs => if c = ' ' then dropSpaces cs else c :: cs

/-- Spaces at both ends are dropped. -/
def trimSpaces (cs : List Char) : List Char := (dropSpaces (dropSpaces cs).reverse).reverse

/-- The characters before the first occurrence of `c`, and those after it. -/
def breakAt (c : Char) : List Char → List Char × List Char
  | [] => ([], [])
  | x :: xs => if x = c then ([], xs) else ((breakAt c xs).1.cons x, (breakAt c xs).2)

/-- The parts of a line between commas, in order. -/
def splitCommas : List Char → List (List Char)
  | [] => [[]]
  | x :: xs =>
    if x = ',' then [] :: splitCommas xs
    else match splitCommas xs with
      | p :: ps => (x :: p) :: ps
      | [] => [[x]]

/-- A digit in base 10 or 16. -/
def digitValue (base : Nat) (c : Char) : Option Nat :=
  let n := c.toNat
  if 48 ≤ n ∧ n ≤ 57 then some (n - 48)
  else if base = 16 ∧ 65 ≤ n ∧ n ≤ 70 then some (n - 55)
  else if base = 16 ∧ 97 ≤ n ∧ n ≤ 102 then some (n - 87)
  else none

/-- Digits after the value read so far. -/
def digitsFrom (base : Nat) : Nat → List Char → Option Nat
  | acc, [] => some acc
  | acc, c :: cs => (digitValue base c).bind fun d => digitsFrom base (acc * base + d) cs

/-- R100: a number, decimal or `0x` hexadecimal, with at least one digit. -/
def parseNat : List Char → Option Nat
  | [] => none
  | '0' :: 'x' :: c :: cs => digitsFrom 16 0 (c :: cs)
  | c :: cs => digitsFrom 10 0 (c :: cs)

/-- R100: `W` for write intent, `R` for read intent. -/
def parseIntent : List Char → Option Bool
  | ['W'] => some false
  | ['R'] => some true
  | _ => none

/-- R100: `ACK` or `NACK`. -/
def parseAck : List Char → Option Bool
  | ['A', 'C', 'K'] => some true
  | ['N', 'A', 'C', 'K'] => some false
  | _ => none

/-- R100: the role names. -/
def parseRole : List Char → Option Role
  | ['G', 'A', 'T', 'E'] => some .gate
  | ['P', 'I', 'T', 'C', 'H'] => some .pitch
  | ['A', 'U', 'X', '1'] => some .aux1
  | ['A', 'U', 'X', '2'] => some .aux2
  | _ => none

/-- R100, R101: the operands of a mnemonic. -/
def parseOperands (mnemonic : List Char) (operands : List (List Char)) : Option Asm :=
  match mnemonic, operands with
  | ['S', 'T', 'A', 'R', 'T'], [a, i] => do return .start (← parseNat a) (← parseIntent i)
  | ['W', 'R', 'I', 'T', 'E'], [b] => do return .write (← parseNat b)
  | ['W', 'R', 'I', 'T', 'E', 'L'], [b, d] => do return .writel (← parseNat b) (← parseNat d)
  | ['R', 'E', 'A', 'D'], [k] => do return .read (← parseAck k)
  | ['C', 'H', 'K', 'A', 'C', 'K'], [[]] => some .chkack
  | ['S', 'T', 'O', 'P'], [[]] => some .stop
  | ['D', 'E', 'V', 'I', 'N', 'I', 'T'], [d, sel] => do return .devinit (← parseNat d) (← parseNat sel)
  | ['S', 'E', 'T', 'C', 'H'], [d, k, v] => do
    return .setch (← parseNat d) (← parseNat k) (← parseNat v)
  | ['P', 'I', 'N', 'I', 'T'], [[]] => some .pinit
  | ['P', 'S', 'E', 'T'], [voice, role, v] => do
    return .pset (← parseNat voice) (← parseRole role) (← parseNat v)
  | ['R', 'E', 'S', 'T', 'A', 'R', 'T'], [a, i] => do return .restart (← parseNat a) (← parseIntent i)
  | ['W', 'R', 'I', 'T', 'E', 'A'], [b] => do return .writea (← parseNat b)
  | ['P', 'R', 'O', 'B', 'E'], [a] => do return .probe (← parseNat a)
  | ['W', 'A', 'I', 'T'], [[]] => some .wait
  | _, _ => none

/-- R100: one line of command text. -/
def parseLine (line : List Char) : Option Asm :=
  let parts := breakAt ' ' (trimSpaces line)
  parseOperands parts.1 ((splitCommas parts.2).map trimSpaces)

/-! The host that runs a list of lines (R101; log entry 29). -/

/-- What the host does for a command: it writes the word to CMD and waits for its end (R101, WAIT "must
stand between any two commands"). -/
def hostRuns (i : Instr) : List PortEvent := [.write 0 (encode i), .wait]

/-- The host's next actions, put before what it does otherwise. -/
def State.hostActs (es : List PortEvent) (s : State) : State := s.setPort (es ++ s.io.port)

/-- The state after one step; the machine never stops (its fault type is empty and no arm of `exec` refuses). -/
def afterStep (s : State) : State :=
  match step s with
  | .next t => t
  | .fault _ | .refused _ => s

/-- The host runs one command from a state with BUSY = 0: the step of its write, and the step in which the poll
finds BUSY = 0. -/
def hostCommand (s : State) (i : Instr) : State := afterStep (afterStep (s.hostActs (hostRuns i)))

/-- The host runs one line: WAIT is a poll that finds BUSY = 0, any other line its commands one after the other. -/
def hostLine (a : Asm) (is : List Instr) (s : State) : State :=
  match a with
  | .wait => afterStep (s.hostActs [.wait])
  | _ => is.foldl hostCommand s

/-- R101, WRITEA: "the host stops the sequence if CHKACK ends with NO_ACK". -/
def stopsSequence (a : Asm) (s : State) : Bool :=
  match a with
  | .writea _ => s.status.err = .noAck
  | _ => false

/-- The host runs a list of assembled lines in order, up to a WRITEA that stops the sequence. -/
def hostLines : List (Asm × List Instr) → State → State
  | [], s => s
  | (a, is) :: rest, s =>
    let s := hostLine a is s
    if stopsSequence a s then s else hostLines rest s

/-- A line with its commands, refused when an operand is out of R100's range. -/
def assembleLine (a : Asm) : Option (Asm × List Instr) := a.assemble.map fun is => (a, is)

/-- The host runs a list of lines from a state with BUSY = 0. No line is run when one of them is refused. -/
def hostProgram (as : List Asm) (s : State) : Option State := (as.mapM assembleLine).map fun ls => hostLines ls s

end Sys2Proof.Machine
end

