-- ==== Sys2Proof/Machine/Trace.lean ====
section
/-!
DEFINITION. What the traces say: the pins as the replay of a line trace, the conditions and latch edges it
makes on the wire (40_softbus_primitives.md R131, R136), and its cost in cycles (70_reset_and_hazards.md
R310, R311). A trace is a list in the order of time here; `Io` holds it newest first.
-/

namespace Sys2Proof.Machine

/-- The line trace, oldest token first. -/
def State.lineTrace (s : State) : List LineEvent := s.io.line.reverse

/-- The byte trace, oldest token first. -/
def State.byteTrace (s : State) : List WireEvent := s.io.wire.reverse

/-- R131: the pins after one token. -/
def LineEvent.drive (p : Pins) : LineEvent → Pins
  | .scl v => { p with scl := v }
  | .sda v => { p with sda := v }
  | .ldac d v => { p with ldac := vset p.ldac d v }
  | .ldacAll => { p with ldac := Vector.replicate 4 true }
  | .sclLdac d => { p with scl := false, ldac := vset p.ldac d false }
  | .wait _ => p
  | .sample _ => p
  | .reset => State.reset.pins

/-- The pins after a line trace. -/
def replay (p : Pins) (es : List LineEvent) : Pins := es.foldl LineEvent.drive p

/-- R136: what one token shows on the wire beside the bytes: a condition or latch edges. -/
def LineEvent.edges (p : Pins) : LineEvent → List WireEvent
  | .sda v => dataCondition p v
  | .ldac d v => latchEdge p d v
  | .ldacAll => latchEdge p 0 true ++ latchEdge p 1 true ++ latchEdge p 2 true ++ latchEdge p 3 true
  | .sclLdac d => latchEdge p d false
  | .scl _ | .wait _ | .sample _ | .reset => []

/-- R136: the conditions and latch edges of a line trace, in order. -/
def edgesOf (p : Pins) : List LineEvent → List WireEvent
  | [] => []
  | e :: es => e.edges p ++ edgesOf (e.drive p) es

/-- The tokens of the byte trace that a line trace fixes by itself. -/
def WireEvent.isEdge : WireEvent → Bool
  | .start | .stop | .latchFell _ | .latchRose _ => true
  | .wrote _ | .ack | .nack | .gotByte _ _ => false

/-- R131, R132: the cycles a token takes, for delays of `q` and `h` counts. A reset is no micro-op. -/
def LineEvent.cycles (q h : Nat) : LineEvent → Nat
  | .wait .q => q
  | .wait .h => h
  | .scl _ | .sda _ | .ldac _ _ | .ldacAll | .sclLdac _ | .sample _ => 1
  | .reset => 0

/-- R310: the least number of cycles of a line trace, every unspecified gap taken as zero. -/
def cyclesOf (q h : Nat) : List LineEvent → Nat
  | [] => 0
  | e :: es => e.cycles q h + cyclesOf q h es

end Sys2Proof.Machine
end

