-- ==== Sys2Proof/Safety.lean ====
section
/-!
DEFINITION. The terms the claims use: what the environment answers, what the host does during a command,
the state between commands, and the line traces of 40_softbus_primitives.md as the spec prints them.
-/

namespace Sys2Proof.Machine

/-! The host. -/

/-- The host leaves the port alone until the command ends: it has nothing more to do, or it polls
STATUS until BUSY = 0 (R301). -/
def State.quiet (s : State) : Bool :=
  match s.io.port with
  | [] => true
  | .wait :: _ => true
  | _ => false

/-- The host does not assert `rst`. -/
def PortEvent.noReset : PortEvent → Bool
  | .rst => false
  | .write _ _ | .read _ _ | .tick | .wait => true

/-- No reset is among the host's next actions. -/
def State.noReset (s : State) : Bool := s.io.port.all PortEvent.noReset

/-- At most `n` steps of the machine, until BUSY = 0. -/
def runWhileBusy : Nat → State → State
  | 0, s => s
  | n + 1, s =>
    if s.status.busy then
      match step s with
      | .next t => runWhileBusy n t
      | .fault _ | .refused _ => s
    else s

/-! The environment. -/

/-- The environment's drive at the n-th sample from here, n = 0 the next one (R14). -/
def Io.answer (io : Io) (n : Nat) : Bool :=
  match io.env[n]? with
  | some b => b
  | none => Config.envDrive (io.draws + (n - io.env.length))

/-- The model's inputs after `n` samples, with what was recorded meanwhile put before the records. -/
def Io.after (io : Io) (n : Nat) (line : List LineEvent) (wire : List WireEvent) : Io :=
  { io with
    env := io.env.drop n
    draws := io.draws + (n - io.env.length)
    line := line.reverse ++ io.line
    wire := wire.reverse ++ io.wire }

/-- The byte eight answers make, the first one its bit 7 (R146). -/
def byteOf (a : Nat → Bool) : Byte :=
  BitVec.ofBool (a 0) ++ BitVec.ofBool (a 1) ++ BitVec.ofBool (a 2) ++ BitVec.ofBool (a 3)
    ++ BitVec.ofBool (a 4) ++ BitVec.ofBool (a 5) ++ BitVec.ofBool (a 6) ++ BitVec.ofBool (a 7)

/-- The byte of the eight answers from the n-th on. -/
def Io.answerByte (io : Io) (n : Nat) : Byte := byteOf fun j => io.answer (n + j)

/-! The lines. -/

/-- Both bus lines high: idle (R137). -/
def Pins.idle (p : Pins) : Pins := { p with scl := true, sda := true }

/-- Both bus lines low: held (R137). -/
def Pins.held (p : Pins) : Pins := { p with scl := false, sda := false }

/-- R137: at a boundary the two lines are at the same level. -/
def State.atBoundary (s : State) : Bool := s.pins.scl == s.pins.sda

/-! The state between commands (R47, R137). -/

/-- What holds between commands: no command runs, the lines are at a boundary, no wait is counted, an error is
reported only with DONE, a device index only with an error, and a valid device is at a device address whose
selector is not 0. -/
abbrev State.Inv (s : State) : Prop :=
  s.status.busy = false ∧ s.pos.mpc = .idle ∧ s.atBoundary = true ∧ s.path.dly = 0 ∧
  (s.status.err ≠ .ok → s.status.done = true) ∧
  (s.status.err = .ok → s.status.errDev = 0) ∧
  ∀ d : Idx, vget s.devs.valid d = true → ∃ sel : Selector, sel ≠ 0 ∧ vget s.devs.addr d = deviceAddr sel

/-- STATUS's fields at the end of a command that no CMD write disturbed (R41). -/
def endStatus (e : ErrCode) (dev : Idx) : Status :=
  { busy := false, done := true, err := e, errDev := dev, drop := false }

/-- A command runs to an end with these registers. The sequencer's position is the program counter: it is
IDLE, and nothing more is said of it. -/
def Completes (o : Host.Outcome State Fault Refusal) (pins : Pins) (status : Status) (rdata : Byte)
    (devs : Devices) (path : Datapath) (io : Io) : Prop :=
  ∃ t, o = .next t ∧ t.pins = pins ∧ t.status = status ∧ t.rdata = rdata ∧ t.devs = devs ∧
    t.path = path ∧ t.pos.mpc = .idle ∧ t.io = io

/-! The line traces of the primitives (R138 to R148), oldest token first. -/

/-- R138: `D1 wQ C1 wH D0 wH C0 wQ`. -/
def lineOfCondStart : List LineEvent :=
  [.sda true, .wait .q, .scl true, .wait .h, .sda false, .wait .h, .scl false, .wait .q]

/-- R141: `Dx wQ C1 wH C0 wQ D0`. -/
def lineOfCell (x : Bool) : List LineEvent :=
  [.sda x, .wait .q, .scl true, .wait .h, .scl false, .wait .q, .sda false]

/-- R143: `Dx wQ C1 wH C0+L<d>0 wQ D0`. -/
def lineOfLatchCell (x : Bool) (d : Idx) : List LineEvent :=
  [.sda x, .wait .q, .scl true, .wait .h, .sclLdac d, .wait .q, .sda false]

/-- R140: the cells of the bits 7 down to 1. -/
def lineOfHighBits (b : Byte) : List LineEvent :=
  lineOfCell (b.getLsbD 7) ++ lineOfCell (b.getLsbD 6) ++ lineOfCell (b.getLsbD 5) ++ lineOfCell (b.getLsbD 4)
    ++ lineOfCell (b.getLsbD 3) ++ lineOfCell (b.getLsbD 2) ++ lineOfCell (b.getLsbD 1)

/-- R140: the eight cells of a byte. -/
def lineOfWrite (b : Byte) : List LineEvent := lineOfHighBits b ++ lineOfCell (b.getLsbD 0)

/-- R143: the eight cells of a latched byte. -/
def lineOfWriteLatch (b : Byte) (d : Idx) : List LineEvent :=
  lineOfHighBits b ++ lineOfLatchCell (b.getLsbD 0) d

/-- R144: `D1 wQ C1 wH s=b C0 wQ D0`. -/
def lineOfCheckAck (b : Bool) : List LineEvent :=
  [.sda true, .wait .q, .scl true, .wait .h, .sample b, .scl false, .wait .q, .sda false]

/-- R146: `wQ C1 wH s=b C0 wQ`. -/
def lineOfReadCell (b : Bool) : List LineEvent :=
  [.wait .q, .scl true, .wait .h, .sample b, .scl false, .wait .q]

/-- R146: the whole of READ with the samples of byte `r`. -/
def lineOfRead (r : Byte) (ack : Bool) : List LineEvent :=
  .sda true :: (lineOfReadCell (r.getLsbD 7) ++ lineOfReadCell (r.getLsbD 6) ++ lineOfReadCell (r.getLsbD 5)
    ++ lineOfReadCell (r.getLsbD 4) ++ lineOfReadCell (r.getLsbD 3) ++ lineOfReadCell (r.getLsbD 2)
    ++ lineOfReadCell (r.getLsbD 1) ++ lineOfReadCell (r.getLsbD 0)) ++ lineOfCell (!ack)

/-- R148: `C1 wH D1 wH`. -/
def lineOfStop : List LineEvent := [.scl true, .wait .h, .sda true, .wait .h]

/-- R150: the start condition, the address byte, the acknowledge check. -/
def lineOfStart (a : Byte) (b : Bool) : List LineEvent := lineOfCondStart ++ lineOfWrite a ++ lineOfCheckAck b

/-- A byte and its acknowledge check, acknowledged. -/
def lineOfAckedByte (b : Byte) : List LineEvent := lineOfWrite b ++ lineOfCheckAck false

/-- R186: a channel write with every check acknowledged, `a` its address byte. -/
def lineOfChannelWrite (a : Byte) (k : Idx) (v : ChanValue) : List LineEvent :=
  lineOfStart a false ++ lineOfAckedByte (channelByte0 k) ++ lineOfAckedByte (channelByte1 v)
    ++ lineOfAckedByte (channelByte2 v) ++ lineOfStop

/-! The byte traces (R136), oldest token first. -/

/-- R150: `S W<a> A`, or `S W<a> N` when the check sampled 1. -/
def wireOfStart (a : Byte) (b : Bool) : List WireEvent := [.start, .wrote a, if b then .nack else .ack]

/-- R186: `S W<a> A W<o> A W<h> A W<l> A P`. -/
def wireOfChannelWrite (a : Byte) (k : Idx) (v : ChanValue) : List WireEvent :=
  [.start, .wrote a, .ack, .wrote (channelByte0 k), .ack, .wrote (channelByte1 v), .ack,
    .wrote (channelByte2 v), .ack, .stop]

/-- The four bytes of a channel write (R186). -/
def channelBytes (a : Byte) (k : Idx) (v : ChanValue) : List Byte :=
  [a, channelByte0 k, channelByte1 v, channelByte2 v]

/-- A transaction that ends at the missing acknowledge of byte `n` of `bytes`: the bytes before it were
acknowledged, and nothing follows (R151, R248). -/
def wireOfNack (bytes : List Byte) (n : Nat) : List WireEvent :=
  .start :: (bytes.take n).flatMap (fun b => [.wrote b, .ack]) ++ [.wrote (bytes.getD n 0), .nack]

/-- The line trace of the same. -/
def lineOfNack (bytes : List Byte) (n : Nat) : List LineEvent :=
  lineOfCondStart ++ (bytes.take n).flatMap lineOfAckedByte ++ lineOfWrite (bytes.getD n 0)
    ++ lineOfCheckAck true

/-- The checks before the n-th from sample `base` on are acknowledged and that one is not. -/
def Io.firstNack (io : Io) (base n : Nat) : Prop :=
  (∀ j < n, io.answer (base + j) = false) ∧ io.answer (base + n) = true

/-! DEVINIT (R190). -/

/-- R192: the discovery transaction and the latch raised after it. -/
def wireOfDiscovery (d : Idx) (rb : Byte) : List WireEvent :=
  [.start, .wrote 0x00, .ack, .latchFell d, .wrote 0x0C, .ack, .start, .wrote 0xC1, .ack,
    .gotByte rb false, .stop, .latchRose d]

/-- The line trace of the same, from DI1 on. -/
def lineOfDiscovery (d : Idx) (rb : Byte) : List LineEvent :=
  .ldac d true :: lineOfStart 0x00 false ++ lineOfWriteLatch 0x0C d ++ lineOfCheckAck false
    ++ lineOfStart 0xC1 false ++ lineOfRead rb false ++ lineOfStop ++ [.ldac d true]

/-- The write address byte of the device address with selector `sel` (R66, R63). -/
def deviceByte (sel : Selector) : Byte := (0x60#7 ||| sel.setWidth 7) ++ 0#1

/-- R193: re-addressing from selector `cur` to `sel`. -/
def wireOfReaddress (d : Idx) (cur sel : Selector) : List WireEvent :=
  [.start, .wrote (deviceByte cur), .ack, .latchFell d, .wrote (readdressByte0 cur), .ack,
    .wrote (readdressByte1 sel), .ack, .wrote (readdressByte2 sel), .ack, .stop, .latchRose d]

/-- The line trace of the same. -/
def lineOfReaddress (d : Idx) (cur sel : Selector) : List LineEvent :=
  lineOfStart (deviceByte cur) false ++ lineOfWriteLatch (readdressByte0 cur) d ++ lineOfCheckAck false
    ++ lineOfAckedByte (readdressByte1 sel) ++ lineOfAckedByte (readdressByte2 sel) ++ lineOfStop
    ++ [.ldac d true]

/-- The line trace of a discovery up to the `n`-th check, which is not acknowledged (R245: nothing follows). -/
def lineOfDiscoveryNack (d : Idx) : Nat → List LineEvent
  | 0 => .ldac d true :: lineOfStart 0x00 true
  | 1 => .ldac d true :: lineOfStart 0x00 false ++ lineOfWriteLatch 0x0C d ++ lineOfCheckAck true
  | _ => .ldac d true :: lineOfStart 0x00 false ++ lineOfWriteLatch 0x0C d ++ lineOfCheckAck false
      ++ lineOfStart 0xC1 true

/-- The line trace of a re-addressing up to the `n`-th check, which is not acknowledged. -/
def lineOfReaddressNack (d : Idx) (cur sel : Selector) : Nat → List LineEvent
  | 0 => lineOfStart (deviceByte cur) true
  | 1 => lineOfStart (deviceByte cur) false ++ lineOfWriteLatch (readdressByte0 cur) d ++ lineOfCheckAck true
  | 2 => lineOfStart (deviceByte cur) false ++ lineOfWriteLatch (readdressByte0 cur) d ++ lineOfCheckAck false
      ++ lineOfWrite (readdressByte1 sel) ++ lineOfCheckAck true
  | _ => lineOfStart (deviceByte cur) false ++ lineOfWriteLatch (readdressByte0 cur) d ++ lineOfCheckAck false
      ++ lineOfAckedByte (readdressByte1 sel) ++ lineOfWrite (readdressByte2 sel) ++ lineOfCheckAck true

/-- R194: the first `n` zeroing writes, in channel order. -/
def wireOfZeroing (sel : Selector) (n : Nat) : List WireEvent :=
  ([0, 1, 2, 3].take n).flatMap fun k => wireOfChannelWrite (deviceByte sel) k 0

/-- The line trace of the same. -/
def lineOfZeroing (sel : Selector) (n : Nat) : List LineEvent :=
  ([0, 1, 2, 3].take n).flatMap fun k => lineOfChannelWrite (deviceByte sel) k 0

/-- What DEVINIT puts on the wire up to the zeroing writes: a latch that was low rises first; re-addressing
runs only when the reported selector differs from `sel` (R193). -/
def wireToZeroing (p : Pins) (d : Idx) (rb : Byte) (sel : Selector) : List WireEvent :=
  latchEdge p d true ++ dataCondition p true ++ wireOfDiscovery d rb
    ++ (if copyA rb = sel then [] else wireOfReaddress d (copyA rb) sel)

/-- The line trace of the same. -/
def lineToZeroing (d : Idx) (rb : Byte) (sel : Selector) : List LineEvent :=
  lineOfDiscovery d rb ++ (if copyA rb = sel then [] else lineOfReaddress d (copyA rb) sel)

/-- The byte trace of a DEVINIT that constructs the device. -/
def wireOfDevinit (p : Pins) (d : Idx) (rb : Byte) (sel : Selector) : List WireEvent :=
  wireToZeroing p d rb sel ++ wireOfZeroing sel 4 ++ [.latchFell d, .latchRose d]

/-- The line trace of the same. -/
def lineOfDevinit (d : Idx) (rb : Byte) (sel : Selector) : List LineEvent :=
  lineToZeroing d rb sel ++ lineOfZeroing sel 4 ++ [.ldac d false, .wait .h, .ldac d true]

/-- How many samples stand before the zeroing writes: three checks and the eight bits of the readback
byte, and four checks more when the device is re-addressed. -/
def samplesToZeroing (rb : Byte) (sel : Selector) : Nat := if copyA rb = sel then 11 else 15

/-- How many samples a DEVINIT takes that constructs the device. -/
def devinitSamples (rb : Byte) (sel : Selector) : Nat := samplesToZeroing rb sel + 16

/-- The checks of DI2, DI4 and DI5 are acknowledged. -/
def Io.discovered (io : Io) (n : Nat) : Prop := ∀ j < 3, io.answer (n + j) = false

/-- The readback byte of a DEVINIT whose samples begin at `n`. -/
def Io.readback (io : Io) (n : Nat) : Byte := io.answerByte (n + 3)

/-- The environment answers a DEVINIT whose samples begin at `n` as a chip that is constructed: every check
is acknowledged and the readback byte is valid. -/
def Io.constructs (io : Io) (n : Nat) (sel : Selector) : Prop :=
  io.discovered n ∧ readbackValid (io.readback n) = true ∧
    ∀ j, 11 ≤ j → j < devinitSamples (io.readback n) sel → io.answer (n + j) = false

/-- A device's row of the cache, all zero. -/
def zeroRow : Vector ChanValue 4 := Vector.replicate 4 0

/-- The per-device registers with one cache cell written (R186, CW9). -/
def Devices.withCell (v : Devices) (d k : Idx) (x : ChanValue) : Devices :=
  { v with cache := vset v.cache d (vset (vget v.cache d) k x) }

/-- The per-device registers after a DEVINIT of `d` that ran to success (R190). -/
def Devices.constructed (v : Devices) (d : Idx) (sel : Selector) : Devices where
  addr := vset v.addr d (deviceAddr sel)
  valid := vset v.valid d true
  cache := vset v.cache d zeroRow

/-! PINIT (R222). -/

/-- Where the samples of device `d` begin in a PINIT. -/
def Io.panelOffset (io : Io) : Nat → Nat
  | 0 => 0
  | d + 1 => io.panelOffset d +
      devinitSamples (io.readback (io.panelOffset d)) (panelSelector (BitVec.ofNat 2 d))

/-- The readback byte of device `d` in a PINIT. -/
def Io.panelReadback (io : Io) (d : Nat) : Byte := io.readback (io.panelOffset d)

/-- The four chips answer a PINIT. -/
def Io.panelConstructs (io : Io) : Prop :=
  ∀ d < 4, io.constructs (io.panelOffset d) (panelSelector (BitVec.ofNat 2 d))

/-- The registers of the panel in a PINIT that has constructed the devices before `f` (R224): the others not valid,
their address and cache as before. -/
def Devices.panelUpTo (v : Devices) (f : Idx) : Devices :=
  ([0, 1, 2, 3].take f.toNat).foldl (fun v d => v.constructed d (panelSelector d))
    { v with valid := Vector.replicate 4 false }

/-- The line trace of a PINIT that has constructed the devices before `f`, from samples `io`. -/
def lineToPanelDevice (io : Io) (f : Idx) : List LineEvent :=
  .ldacAll :: (List.range f.toNat).flatMap fun d =>
    lineOfDevinit (BitVec.ofNat 2 d) (io.panelReadback d) (panelSelector (BitVec.ofNat 2 d))

/-- The state from which a DEVINIT of device `f` does what PINIT does at that device, the devices before it
constructed: PI0's latches and `valid`, the lines, RDATA and samples that the devices before it leave. -/
def State.atPanelDevice (s : State) (f : Idx) : State :=
  { s with
    pins := { (if f = 0 then s.pins else s.pins.idle) with ldac := Vector.replicate 4 true }
    rdata := if f = 0 then s.rdata else s.io.panelReadback (f.toNat - 1)
    devs := s.devs.panelUpTo f
    io := s.io.after (s.io.panelOffset f.toNat) [] [] }

/-- The latches that PI0 raises, in the order of the devices. -/
def wireOfPanelLatches (p : Pins) : List WireEvent :=
  latchEdge p 0 true ++ latchEdge p 1 true ++ latchEdge p 2 true ++ latchEdge p 3 true

/-- The pins of a panel at rest: bus idle, latches high. -/
def restPins : Pins := { scl := true, sda := true, ldac := Vector.replicate 4 true }

/-- The registers of the panel after a PINIT that succeeded: device `d` at 0x61 + d (R221). -/
def panelDevices : Devices where
  addr := #v[0x61, 0x62, 0x63, 0x64]
  valid := Vector.replicate 4 true
  cache := Vector.replicate 4 zeroRow

/-! The command text (R100, R101). -/

/-- The words of a line of command text, as numbers; none for a line out of R100's ranges. -/
def textWords (a : Asm) : Option (List Nat) := a.assemble.map fun is => is.map fun i => (encode i).toNat

/-! Reset (R46). -/

/-- The block's registers and pins at the values of the table of R46. -/
abbrev State.IsReset (t : State) : Prop :=
  t.pins.scl = true ∧ t.pins.sda = true ∧ (∀ d : Idx, vget t.pins.ldac d = true) ∧
  t.status.busy = false ∧ t.status.done = false ∧ t.status.err.code = 0 ∧ t.status.errDev = 0 ∧
  t.status.drop = false ∧ t.rdata = 0x00 ∧
  (∀ d : Idx, vget t.devs.valid d = false ∧ vget t.devs.addr d = 0x00 ∧
    ∀ k : Idx, vget (vget t.devs.cache d) k = 0x000) ∧
  t.pos.mpc = .idle ∧ t.pos.upc = 0 ∧ t.pos.bit = 0 ∧
  t.path.dly = 0 ∧ t.path.shreg = 0 ∧ t.path.smp = false ∧ t.path.rb = 0 ∧ t.path.curA = 0 ∧
  t.path.kloop = 0 ∧ t.path.dloop = 0 ∧ t.path.opDev = 0 ∧ t.path.opCh = 0 ∧ t.path.opVal = 0 ∧
  t.path.opAddr = 0 ∧ t.path.cmdR = 0 ∧ t.busIdle = true

end Sys2Proof.Machine
end

