-- ==== Sys2Proof/Certificates/Slice0/Obligations.lean ====
section
/-!
DEFINITION. The statements for the provers. Each one's docstring names the rule of spec/ it formalises.
`State.quiet` in a hypothesis says that the host leaves the port alone until the command ends; what the
host's accesses do to a running command is stated apart (RunningCommandIsUndisturbed, ResetCutsACommand).
-/

open Sys2Proof Sys2Proof.Machine

/-! Encoding. -/

/-- R91, R93: every command is read back from its word, with every operand. -/
def Obligations.EncodedCommandDecodes : Prop := ∀ i : Instr, decode (encode i) = .ok i

/-- R90, R92: a word that decodes is the word of its command: no bit of it is dropped. -/
def Obligations.DecodedWordIsTheEncoding : Prop := ∀ (w : Word) (i : Instr), decode w = .ok i → encode i = w

/-- R92: "The rows' patterns are disjoint, so at most one matches", and the row that matches gives the
command. -/
def Obligations.OpcodePatternsAreDisjoint : Prop :=
  opcodeMap.length = 10 ∧
  ∀ (w : Word) (m n : Nat) (r q : OpcodeRow), opcodeMap[m]? = some r → opcodeMap[n]? = some q →
    r.fits w = true → (q.fits w = true → m = n) ∧ decode w = .ok (r.operands w)

/-- R94: opcodes 0x0, 0x7 and 0xC to 0xF, and a defined opcode with a 1 in a reserved bit, are rejected,
each by its name; the all-zero and the all-ones word among them. -/
def Obligations.ReservedWordsAreRejected : Prop :=
  (∀ w : Word, opcodeOf w ∈ [0x0#4, 0x7#4, 0xC#4, 0xD#4, 0xE#4, 0xF#4] →
    decode w = .error (.unknownOpcode (opcodeOf w))) ∧
  (∀ (w : Word) (r : OpcodeRow), r ∈ opcodeMap → opcodeOf w = opcodeOf r.pattern →
    w &&& r.mask ≠ r.pattern → decode w = .error (.reservedBitSet r.mnemonic)) ∧
  (∃ e, decode 0x00000000 = .error e) ∧ (∃ e, decode 0xFFFFFFFF = .error e)

/-- R91, R100 (vectors V27): words written out from the formats decode to their commands. -/
def Obligations.WrittenWordsDecode : Prop :=
  decode 0x100000C2 = .ok (.start 0x61 false) ∧ decode 0x100000C1 = .ok (.start 0x60 true) ∧
  decode 0x200000A5 = .ok (.write 0xA5) ∧ decode 0x3000020C = .ok (.writel 0x0C 2) ∧
  decode 0x40000001 = .ok (.read true) ∧ decode 0x50000000 = .ok .chkack ∧
  decode 0x60000000 = .ok .stop ∧ decode 0x80000203 = .ok (.devinit 2 3) ∧
  decode 0x90130FFF = .ok (.setch 1 3 0xFFF) ∧ decode 0xA0000000 = .ok .pinit ∧
  decode 0xB0210800 = .ok (.pset 2 .pitch 0x800)

/-- R100, R101: the word of every line of command text is the number the table of R100 gives, the
pseudo-commands stand for their expansions, and a line out of range is refused. -/
def Obligations.TextWordsFollowTheTable : Prop :=
  (∀ a < 0x80, ∀ rd : Bool, textWords (.start a rd) = some [0x10000000 ||| a <<< 1 ||| rd.toNat]) ∧
  (∀ b < 0x100, textWords (.write b) = some [0x20000000 ||| b]) ∧
  (∀ b < 0x100, ∀ d < 4, textWords (.writel b d) = some [0x30000000 ||| d <<< 8 ||| b]) ∧
  (textWords (.read true) = some [0x40000001] ∧ textWords (.read false) = some [0x40000000]) ∧
  textWords .chkack = some [0x50000000] ∧ textWords .stop = some [0x60000000] ∧
  (∀ d < 4, ∀ sel < 8, textWords (.devinit d sel) = some [0x80000000 ||| d <<< 8 ||| sel]) ∧
  (∀ d < 4, ∀ k < 16, ∀ v < 0x10000,
    textWords (.setch d k v) = some [0x90000000 ||| d <<< 20 ||| k <<< 16 ||| v]) ∧
  textWords .pinit = some [0xA0000000] ∧
  (∀ voice < 16, ∀ role : Role, ∀ v < 0x10000, textWords (.pset voice role v) =
    some [0xB0000000 ||| voice <<< 20 ||| role.code.toNat <<< 16 ||| v]) ∧
  (∀ (a : Nat) (rd : Bool), textWords (.restart a rd) = textWords (.start a rd)) ∧
  (∀ b < 0x100, textWords (.writea b) = some [0x20000000 ||| b, 0x50000000]) ∧
  (∀ a < 0x80, textWords (.probe a) = some [0x10000000 ||| a <<< 1, 0x60000000]) ∧
  textWords .wait = some [] ∧
  ∀ a : Asm, a.wellFormed = false → textWords a = none

/-! The step and the register port. -/

/-- R32, R92: a word that decodes, written to CMD while BUSY = 0, runs its command. (That this one step is the
whole of `exec`, from acceptance to end, is the model's choice, log entry 1: R32 says only that the engine starts
executing.) -/
def Obligations.StepRunsTheWrittenCommand : Prop :=
  ∀ (s : State) (w : Word) (es : List PortEvent) (i : Instr), s.status.busy = false →
    s.io.port = .write 0 w :: es → decode w = .ok i → step s = exec i (s.setPort es)

/-- R244, R32: a word that does not decode is accepted, performs no micro-op and completes with ILLEGAL. (That
`cmd_r` takes the word is the model's reading of R32 against "no other register changes" of R244, log entry 23; that
it completes in one step is log entry 1.) -/
def Obligations.IllegalWordCompletes : Prop :=
  ∀ (s : State) (w : Word) (es : List PortEvent) (e : DecodeReject), s.status.busy = false →
    s.io.port = .write 0 w :: es → (s.setPort es).quiet = true → decode w = .error e →
    Completes (step s) s.pins (endStatus .illegal 0) s.rdata s.devs { s.path with cmdR := w }
      { s.io with port := es }

/-- R32: acceptance while BUSY = 0, and a CMD write dropped while BUSY = 1. -/
def Obligations.CmdWriteIsAcceptedOrDropped : Prop :=
  (∀ (s : State) (w : Word),
    (s.accept w).status = { busy := true, done := false, err := .ok, errDev := 0, drop := false } ∧
    (s.accept w).path = { s.path with cmdR := w } ∧ (s.accept w).rdata = s.rdata ∧
    (s.accept w).devs = s.devs ∧ (s.accept w).pins = s.pins) ∧
  (∀ (s : State) (w : Word) (es : List PortEvent), s.io.port = .write 0 w :: es →
    (s.status.busy = true → step s = .next ((s.setPort es).withStatus { s.status with drop := true })) ∧
    ((s.setPort es).quiet = true →
      serve s = .ok ((s.setPort es).withStatus { s.status with drop := true }))) ∧
  (∀ (s : State) (env : Bool), s.regRead 0 env = 0)

/-- R44: reads have no side effect, at any index, whether or not a command runs; writes of any index other
than 0 are ignored; the reserved indices read 0. -/
def Obligations.ReadsAndOtherWritesHaveNoEffect : Prop :=
  (∀ (s : State) (es : List PortEvent) (idx : RegIdx) (env : Bool), s.io.port = .read idx env :: es →
    step s = .next (s.withIo { s.io with port := es, reads := (idx, s.regRead idx env) :: s.io.reads }) ∧
    (es = [] →
      serve s = .ok (s.withIo { s.io with port := [], reads := (idx, s.regRead idx env) :: s.io.reads }))) ∧
  (∀ (s : State) (es : List PortEvent) (idx : RegIdx) (w : Word), s.io.port = .write idx w :: es → idx ≠ 0 →
    step s = .next (s.setPort es) ∧ (es = [] → serve s = .ok (s.setPort []))) ∧
  (∀ (s : State) (idx : RegIdx) (env : Bool), (5 ≤ idx ∧ idx ≤ 7) ∨ (12 ≤ idx ∧ idx ≤ 15) →
    s.regRead idx env = 0)

/-- R31: the register map, field by field; bits not listed read 0. -/
def Obligations.RegisterMapReads : Prop :=
  ∀ (s : State) (env : Bool),
    s.regRead 0 env = 0 ∧
    ((s.regRead 1 env).getLsbD 0 = s.status.busy ∧ (s.regRead 1 env).getLsbD 1 = s.status.done ∧
      (s.regRead 1 env).extractLsb' 2 3 = s.status.err.code ∧
      (s.regRead 1 env).extractLsb' 5 2 = s.status.errDev ∧ (s.regRead 1 env).getLsbD 7 = s.status.drop ∧
      (s.regRead 1 env).getLsbD 8 = (s.pins.scl && s.pins.sda) ∧
      (∀ d : Idx, (s.regRead 1 env).getLsbD (9 + d.toNat) = vget s.devs.valid d) ∧
      (s.regRead 1 env).extractLsb' 13 19 = 0) ∧
    s.regRead 2 env = s.rdata.setWidth 32 ∧
    ((s.regRead 3 env).extractLsb' 0 16 = Config.quarter ∧ (s.regRead 3 env).extractLsb' 16 16 = Config.half) ∧
    ((s.regRead 4 env).getLsbD 0 = s.pins.scl ∧ (s.regRead 4 env).getLsbD 1 = s.pins.sda ∧
      (s.regRead 4 env).getLsbD 2 = (s.pins.sda && env) ∧ (s.regRead 4 env).getLsbD 3 = false ∧
      (∀ d : Idx, (s.regRead 4 env).getLsbD (4 + d.toNat) = vget s.pins.ldac d) ∧
      (s.regRead 4 env).extractLsb' 8 24 = 0) ∧
    (∀ d : Idx, (s.regRead (8 + d.setWidth 5) env).extractLsb' 0 7 = vget s.devs.addr d ∧
      (s.regRead (8 + d.setWidth 5) env).getLsbD 7 = vget s.devs.valid d ∧
      (s.regRead (8 + d.setWidth 5) env).extractLsb' 8 24 = 0) ∧
    (∀ d k : Idx, (s.regRead (16 + 4 * d.setWidth 5 + k.setWidth 5) env) =
      (vget (vget s.devs.cache d) k).setWidth 32) ∧
    (∀ idx : RegIdx, (5 ≤ idx ∧ idx ≤ 7) ∨ (12 ≤ idx ∧ idx ≤ 15) → s.regRead idx env = 0)

/-- R46: a rising edge with `rst = 1`, between commands or inside one, leaves every register and pin at its
reset value; so does `State.reset`. -/
def Obligations.ResetValues : Prop :=
  State.reset.IsReset ∧
  (∀ (s : State) (es : List PortEvent), s.io.port = .rst :: es →
    (∃ t, step s = .next t ∧ t.IsReset) ∧ ∃ t, serve s = .error t ∧ t.IsReset)

/-- R282: a reset during a running command ends it at once, wherever it lands; DONE stays 0 and no error is
recorded. The reset lands at the command's n-th turn of the host, unless the command has ended before
(how a reset is placed inside a command is the model's: log entry 2). -/
def Obligations.ResetCutsACommand : Prop :=
  ∀ (i : Instr) (s : State) (n : Nat), s.io.port = List.replicate n .tick ++ [.rst] →
    ∃ t, exec i s = .next t ∧ (t.io.port = [] → t.IsReset) ∧ (n = 0 → t.io.port = [])

/-- R32, R73: no access of the host other than a reset starts, cancels or alters a command: it ends in the
same registers, with the same traces and the same samples taken, as when the host leaves the port alone;
only DROP may differ. (Where an access can land is the model's choice: log entries 2 and 22.) -/
def Obligations.RunningCommandIsUndisturbed : Prop :=
  ∀ (i : Instr) (s : State), s.noReset = true →
    ∃ t u, exec i s = .next t ∧ exec i (s.setPort []) = .next u ∧
      t.pins = u.pins ∧ t.rdata = u.rdata ∧ t.devs = u.devs ∧ t.path = u.path ∧ t.pos = u.pos ∧
      t.status = { u.status with drop := t.status.drop } ∧
      t.io.env = u.io.env ∧ t.io.draws = u.io.draws ∧ t.io.line = u.io.line ∧ t.io.wire = u.io.wire

/-- R32, R33: DROP at the end of a command is 1 exactly when a CMD write was among the host's accesses that landed
while the command ran, wherever among them, and is 0 after a command during which the host writes no CMD. -/
def Obligations.DropRecordsADroppedWrite : Prop :=
  ∀ (i : Instr) (s : State),
    (s.noReset = true → ∃ t pre, exec i s = .next t ∧ s.io.port = pre ++ t.io.port ∧
      (t.status.drop = true ↔ ∃ w, PortEvent.write 0 w ∈ pre)) ∧
    ((∀ e ∈ s.io.port, ∀ w, e ≠ .write 0 w) → ∃ t, exec i s = .next t ∧ t.status.drop = false)

/-! The six primitives. -/

/-- R150: START: the start condition, the address byte, the acknowledge check; NO_ACK exactly when the check
samples 1; the bus held in both outcomes; nothing else changes. -/
def Obligations.StartResult : Prop :=
  ∀ (s : State) (addr : BusAddr) (rd : Bool), s.quiet = true →
    Completes (exec (.start addr rd) s) s.pins.held
      (endStatus (if s.io.answer 0 then .noAck else .ok) 0) s.rdata s.devs
      { s.path with
        cmdR := encode (.start addr rd), shreg := addr ++ BitVec.ofBool rd, smp := s.io.answer 0, dly := 0 }
      (s.io.after 1 (lineOfStart (addr ++ BitVec.ofBool rd) (s.io.answer 0))
        (dataCondition s.pins true ++ wireOfStart (addr ++ BitVec.ofBool rd) (s.io.answer 0)))

/-- R139: a START in the held state is a repeated start: one start condition and no stop condition. -/
def Obligations.RepeatedStartMakesNoStop : Prop :=
  ∀ (s : State) (addr : BusAddr) (rd : Bool), s.quiet = true → s.pins.scl = false → s.pins.sda = false →
    ∃ t, exec (.start addr rd) s = .next t ∧
      t.byteTrace = s.byteTrace ++ wireOfStart (addr ++ BitVec.ofBool rd) (s.io.answer 0)

/-- R140: WRITE: eight write cells, most significant bit first; always success; the bus held. From idle a
byte with bit 7 = 0 makes a start condition first. -/
def Obligations.WriteResult : Prop :=
  ∀ (s : State) (b : Byte), s.quiet = true →
    Completes (exec (.write b) s) s.pins.held (endStatus .ok 0) s.rdata s.devs
      { s.path with cmdR := encode (.write b), shreg := b, dly := 0 }
      (s.io.after 0 (lineOfWrite b) (dataCondition s.pins (b.getLsbD 7) ++ [.wrote b]))

/-- R143: WRITEL: as WRITE, with the latch of `dev` falling at the clock's last fall and left low; the three
other latches untouched. -/
def Obligations.WritelResult : Prop :=
  ∀ (s : State) (b : Byte) (dev : Idx), s.quiet = true →
    Completes (exec (.writel b dev) s) { s.pins.held with ldac := vset s.pins.ldac dev false }
      (endStatus .ok 0) s.rdata s.devs { s.path with cmdR := encode (.writel b dev), shreg := b, dly := 0 }
      (s.io.after 0 (lineOfWriteLatch b dev)
        (dataCondition s.pins (b.getLsbD 7) ++ latchEdge s.pins dev false ++ [.wrote b]))

/-- R144: CHKACK: a clock pulse with a sample; NO_ACK if and only if it sampled 1; the bus held. -/
def Obligations.ChkackResult : Prop :=
  ∀ s : State, s.quiet = true →
    Completes (exec .chkack s) s.pins.held (endStatus (if s.io.answer 0 then .noAck else .ok) 0) s.rdata s.devs
      { s.path with cmdR := encode .chkack, smp := s.io.answer 0, dly := 0 }
      (s.io.after 1 (lineOfCheckAck (s.io.answer 0))
        (dataCondition s.pins true ++ [if s.io.answer 0 then .nack else .ack]))

/-- R146: READ: eight samples into RDATA, the first one bit 7; the ninth cell low for an acknowledge; always
success; the bus held. -/
def Obligations.ReadResult : Prop :=
  ∀ (s : State) (ack : Bool), s.quiet = true →
    Completes (exec (.read ack) s) s.pins.held (endStatus .ok 0) (s.io.answerByte 0) s.devs
      { s.path with cmdR := encode (.read ack), shreg := s.io.answerByte 0, dly := 0 }
      (s.io.after 8 (lineOfRead (s.io.answerByte 0) ack)
        (dataCondition s.pins true ++ [.gotByte (s.io.answerByte 0) ack])) ∧
    ∀ j < 8, (s.io.answerByte 0).getLsbD (7 - j) = s.io.answer j

/-- R148, R149: STOP: the clock rises, then the data line: a stop condition if the data line was low, and no
condition from idle; always success; the bus idle. -/
def Obligations.StopResult : Prop :=
  ∀ s : State, s.quiet = true →
    Completes (exec .stop s) s.pins.idle (endStatus .ok 0) s.rdata s.devs
      { s.path with cmdR := encode .stop, dly := 0 }
      (s.io.after 0 lineOfStop (if s.pins.sda then [] else [.stop]))

/-! SETCH. -/

/-- R188 (SC0), R243: SETCH with a channel above 3, a value above 4095 or a device not valid ends with
REJECT, and no micro-op is performed. (That `cmd_r` takes the rejected word is the model's reading of R32 against
R243, log entry 23.) -/
def Obligations.SetchRejects : Prop :=
  ∀ (s : State) (dev : Idx) (ch : BitVec 4) (value : BitVec 16), s.quiet = true →
    3 < ch.toNat ∨ 4095 < value.toNat ∨ vget s.devs.valid dev = false →
    Completes (exec (.setch dev ch value) s) s.pins (endStatus .reject dev) s.rdata s.devs
      { s.path with cmdR := encode (.setch dev ch value) } s.io

/-- R188, R186: a SETCH in range on a valid device with every check acknowledged sends the channel write to
the device's address, ends with the bus idle, and only then writes the value into the device's cache. -/
def Obligations.SetchWritesTheChannel : Prop :=
  ∀ (s : State) (dev : Idx) (ch : BitVec 4) (value : BitVec 16), s.quiet = true →
    ch.toNat ≤ 3 → value.toNat ≤ 4095 → vget s.devs.valid dev = true → (∀ j < 4, s.io.answer j = false) →
    let a := vget s.devs.addr dev ++ 0#1
    let k := ch.extractLsb' 0 2
    let v := value.extractLsb' 0 12
    Completes (exec (.setch dev ch value) s) s.pins.idle (endStatus .ok 0) s.rdata
      (s.devs.withCell dev k v)
      { s.path with
        cmdR := encode (.setch dev ch value), shreg := v.extractLsb' 0 8, smp := false, dly := 0
        opDev := dev, opCh := k, opVal := v, opAddr := vget s.devs.addr dev }
      (s.io.after 4 (lineOfChannelWrite a k v) (dataCondition s.pins true ++ wireOfChannelWrite a k v))

/-- R188, R186: a SETCH whose n-th check (n = 0 to 3) is the first that is not acknowledged ends there with
NO_ACK: the bus held, no stop condition, the cache unchanged. -/
def Obligations.SetchEndsAtTheFirstNack : Prop :=
  ∀ (s : State) (dev : Idx) (ch : BitVec 4) (value : BitVec 16) (n : Nat), s.quiet = true →
    ch.toNat ≤ 3 → value.toNat ≤ 4095 → vget s.devs.valid dev = true → n < 4 → s.io.firstNack 0 n →
    let bytes := channelBytes (vget s.devs.addr dev ++ 0#1) (ch.extractLsb' 0 2) (value.extractLsb' 0 12)
    Completes (exec (.setch dev ch value) s) s.pins.held (endStatus .noAck dev) s.rdata s.devs
      { s.path with
        cmdR := encode (.setch dev ch value), shreg := bytes.getD n 0, smp := true, dly := 0
        opDev := dev, opCh := ch.extractLsb' 0 2, opVal := value.extractLsb' 0 12
        opAddr := vget s.devs.addr dev }
      (s.io.after (n + 1) (lineOfNack bytes n) (dataCondition s.pins true ++ wireOfNack bytes n))

/-! DEVINIT. -/

/-- R190 (DI0): target selector 0 ends with REJECT before any micro-op, and `valid` is not cleared.
(That `cmd_r` takes the rejected word is the model's reading of R32 against R243, log entry 23.) -/
def Obligations.DevinitRejectsSelectorZero : Prop :=
  ∀ (s : State) (dev : Idx), s.quiet = true →
    Completes (exec (.devinit dev 0) s) s.pins (endStatus .reject dev) s.rdata s.devs
      { s.path with cmdR := encode (.devinit dev 0) } s.io

/-- R190: a DEVINIT whose chip acknowledges every check and reports a valid readback byte constructs the
device: discovery, re-addressing if the reported selector differs, four zeroing writes at the target
address, the commit pulse; the address and `valid` set, the device's cache zero, the bus idle, the latch
high. (That the zeroing writes leave `op_dev`, `op_ch`, `op_val` and `op_addr` as they were is the model's reading,
log entry 10; that `kloop` is 3 after its last turn is the model's choice, log entry 27.) -/
def Obligations.DevinitConstructsTheDevice : Prop :=
  ∀ (s : State) (dev : Idx) (sel : Selector), s.quiet = true → sel ≠ 0 → s.io.constructs 0 sel →
    let rb := s.io.readback 0
    Completes (exec (.devinit dev sel) s) { s.pins.idle with ldac := vset s.pins.ldac dev true }
      (endStatus .ok 0) rb (s.devs.constructed dev sel)
      { s.path with
        cmdR := encode (.devinit dev sel), shreg := 0x00, smp := false, dly := 0
        rb := rb, curA := rb.extractLsb' 5 3, kloop := 3 }
      (s.io.after (devinitSamples rb sel) (lineOfDevinit dev rb sel) (wireOfDevinit s.pins dev rb sel))

/-- R195, row DI9: a readback byte that fails validation ends DEVINIT with ADDR_MISMATCH: the bus idle, the
latch high, the byte in RDATA, the device not valid, its address and cache unchanged. -/
def Obligations.DevinitReportsAMismatch : Prop :=
  ∀ (s : State) (dev : Idx) (sel : Selector), s.quiet = true → sel ≠ 0 → s.io.discovered 0 →
    readbackValid (s.io.readback 0) = false →
    let rb := s.io.readback 0
    Completes (exec (.devinit dev sel) s) { s.pins.idle with ldac := vset s.pins.ldac dev true }
      (endStatus .addrMismatch dev) rb { s.devs with valid := vset s.devs.valid dev false }
      { s.path with cmdR := encode (.devinit dev sel), shreg := rb, smp := false, dly := 0, rb := rb }
      (s.io.after 11 (lineOfDiscovery dev rb)
        (latchEdge s.pins dev true ++ dataCondition s.pins true ++ wireOfDiscovery dev rb))

/-- R195, rows DI2 and DI4, DI5, and R245: a missing acknowledge in discovery. The latch is low unless it is the
first check; no micro-op of a later step is performed. -/
def Obligations.DevinitNackInDiscovery : Prop :=
  ∀ (s : State) (dev : Idx) (sel : Selector) (n : Nat), s.quiet = true → sel ≠ 0 → n < 3 →
    s.io.firstNack 0 n →
    Completes (exec (.devinit dev sel) s)
      { s.pins.held with ldac := vset s.pins.ldac dev (n == 0) } (endStatus .noAck dev) s.rdata
      { s.devs with valid := vset s.devs.valid dev false }
      { s.path with
        cmdR := encode (.devinit dev sel), shreg := [0x00#8, 0x0C#8, 0xC1#8].getD n 0, smp := true, dly := 0 }
      (s.io.after (n + 1) (lineOfDiscoveryNack dev n) (latchEdge s.pins dev true ++ dataCondition s.pins true
        ++ (wireOfDiscovery dev 0).take (3 * n + 2) ++ [.nack]))

/-- R195, rows DI11 and DI13, DI15, DI17, and R245: a missing acknowledge in re-addressing. The latch is low unless
it is the first check of the transaction; no micro-op of a later step is performed. -/
def Obligations.DevinitNackInReaddressing : Prop :=
  ∀ (s : State) (dev : Idx) (sel : Selector) (n : Nat), s.quiet = true → sel ≠ 0 → n < 4 →
    s.io.discovered 0 → readbackValid (s.io.readback 0) = true →
    (s.io.readback 0).extractLsb' 5 3 ≠ sel → s.io.firstNack 11 n →
    let rb := s.io.readback 0
    let cur : Selector := rb.extractLsb' 5 3
    Completes (exec (.devinit dev sel) s)
      { s.pins.held with ldac := vset s.pins.ldac dev (n == 0) } (endStatus .noAck dev) rb
      { s.devs with valid := vset s.devs.valid dev false }
      { s.path with
        cmdR := encode (.devinit dev sel), smp := true, dly := 0, rb := rb, curA := cur
        shreg := [deviceByte cur, readdressByte0 cur, readdressByte1 sel, readdressByte2 sel].getD n 0 }
      (s.io.after (12 + n) (lineOfDiscovery dev rb ++ lineOfReaddressNack dev cur sel n)
        (latchEdge s.pins dev true ++ dataCondition s.pins true
        ++ wireOfDiscovery dev rb ++ (wireOfReaddress dev cur sel).take ([2, 5, 7, 9].getD n 0) ++ [.nack]))

/-- R195, row DI20, and R245: a missing acknowledge at check `j` of the zeroing write of channel `k`: the address is
the target already, the device is not valid, the channels before `k` are zero in the cache and the others unchanged;
no micro-op of a later step is performed. (That the zeroing writes leave `op_dev`, `op_ch`, `op_val` and `op_addr`
as they were is the model's reading, log entry 10.) -/
def Obligations.DevinitNackInZeroing : Prop :=
  ∀ (s : State) (dev : Idx) (sel : Selector) (k j : Nat), s.quiet = true → sel ≠ 0 → k < 4 → j < 4 →
    s.io.discovered 0 → readbackValid (s.io.readback 0) = true →
    (∀ m, 11 ≤ m → m < samplesToZeroing (s.io.readback 0) sel → s.io.answer m = false) →
    s.io.firstNack (samplesToZeroing (s.io.readback 0) sel) (4 * k + j) →
    let rb := s.io.readback 0
    let ch := BitVec.ofNat 2 k
    ∃ cache, Completes (exec (.devinit dev sel) s)
      { s.pins.held with ldac := vset s.pins.ldac dev true } (endStatus .noAck dev) rb
      { addr := vset s.devs.addr dev (deviceAddr sel), valid := vset s.devs.valid dev false, cache := cache }
      { s.path with
        cmdR := encode (.devinit dev sel), smp := true, dly := 0, rb := rb, curA := rb.extractLsb' 5 3
        kloop := ch, shreg := (channelBytes (deviceByte sel) ch 0).getD j 0 }
      (s.io.after (samplesToZeroing rb sel + 4 * k + j + 1)
        (lineToZeroing dev rb sel ++ lineOfZeroing sel k ++ lineOfNack (channelBytes (deviceByte sel) ch 0) j)
        (wireToZeroing s.pins dev rb sel
        ++ wireOfZeroing sel k ++ wireOfNack (channelBytes (deviceByte sel) ch 0) j)) ∧
      ∀ d c : Idx, vget (vget cache d) c =
        if d = dev ∧ c.toNat < k then 0 else vget (vget s.devs.cache d) c

/-! PINIT and PSET. -/

/-- R222, R221: a PINIT whose four chips acknowledge and report valid readback bytes constructs device `d` at
address 0x61 + d, in the order 0 to 3; all valid, all cache cells 0, the bus idle, the latches high.
(The model's: the order of the edge tokens of PI0's one clock edge, log entry 12; that the zeroing writes leave
`op_dev`, `op_ch`, `op_val` and `op_addr` as they were, log entry 10; `kloop` and `dloop` at 3 after their last
turns, log entry 27.) -/
def Obligations.PinitBringsUpThePanel : Prop :=
  ∀ s : State, s.quiet = true → s.io.panelConstructs →
    Completes (exec .pinit s) restPins (endStatus .ok 0) (s.io.panelReadback 3) panelDevices
      { s.path with
        cmdR := encode .pinit, shreg := 0x00, smp := false, dly := 0, rb := s.io.panelReadback 3
        curA := (s.io.panelReadback 3).extractLsb' 5 3, kloop := 3, dloop := 3 }
      (s.io.after (s.io.panelOffset 4)
        (.ldacAll :: [0, 1, 2, 3].flatMap fun d =>
          lineOfDevinit (BitVec.ofNat 2 d) (s.io.panelReadback d) (panelSelector (BitVec.ofNat 2 d)))
        (wireOfPanelLatches s.pins ++ dataCondition s.pins true ++ [0, 1, 2, 3].flatMap fun d =>
          wireOfDevinit restPins (BitVec.ofNat 2 d) (s.io.panelReadback d) (panelSelector (BitVec.ofNat 2 d))))

/-- R224, R222: a PINIT that ends with an error, at device `f`: the devices before it are constructed, it is
not valid, the devices after it are not valid and otherwise unchanged, with their latch high; the error
is never REJECT. And device `f` is in the state that R195 gives for the failing step: when the devices before `f`
are constructed and a DEVINIT of `f` from there fails, PINIT fails with the pins, STATUS, RDATA and per-device
registers of that DEVINIT, and with its line trace after that of the devices before. -/
def Obligations.PinitStopsAtTheFailingDevice : Prop :=
  (∀ s t : State, exec .pinit s = .next t → t.status.err ≠ .ok →
    (t.status.err = .noAck ∨ t.status.err = .addrMismatch) ∧
    ∀ d : Idx,
      (d < t.status.errDev → vget t.devs.valid d = true ∧
        vget t.devs.addr d = 0x61 + d.setWidth 7 ∧ vget t.devs.cache d = zeroRow ∧
        vget t.pins.ldac d = true) ∧
      (d = t.status.errDev → vget t.devs.valid d = false) ∧
      (t.status.errDev < d → vget t.devs.valid d = false ∧ vget t.devs.addr d = vget s.devs.addr d ∧
        vget t.devs.cache d = vget s.devs.cache d ∧ vget t.pins.ldac d = true)) ∧
  ∀ (s v : State) (f : Idx), s.quiet = true →
    (∀ d < f.toNat, s.io.constructs (s.io.panelOffset d) (panelSelector (BitVec.ofNat 2 d))) →
    exec (.devinit f (panelSelector f)) (s.atPanelDevice f) = .next v → v.status.err ≠ .ok →
    ∃ t es, exec .pinit s = .next t ∧ t.pins = v.pins ∧ t.status = v.status ∧ t.rdata = v.rdata ∧ t.devs = v.devs ∧
      v.lineTrace = s.lineTrace ++ es ∧ t.lineTrace = s.lineTrace ++ lineToPanelDevice s.io f ++ es

/-- R223: while PINIT runs, at most one latch line is low at any moment, from its first step on. -/
def Obligations.PinitHoldsAtMostOneLatchLow : Prop :=
  ∀ s t : State, s.noReset = true → exec .pinit s = .next t →
    ∃ es, t.lineTrace = s.lineTrace ++ es ∧ es ≠ [] ∧
      ∀ n, 1 ≤ n → n ≤ es.length → ∀ d e : Idx,
        vget (replay s.pins (es.take n)).ldac d = false → vget (replay s.pins (es.take n)).ldac e = false → d = e

/-- R226 (PS0 and SC0), R246: PSET with a voice above 3 ends with REJECT and ERR_DEV 0; with a voice in range
and a value above 4095 or a device not valid, with REJECT and that device; no micro-op is performed. (That
`cmd_r` takes the rejected word is the model's reading of R32 against R243, log entry 23.) -/
def Obligations.PsetRejects : Prop :=
  ∀ (s : State) (voice : BitVec 4) (role : Role) (value : BitVec 16), s.quiet = true →
    3 < voice.toNat ∨ 4095 < value.toNat ∨ vget s.devs.valid (voice.extractLsb' 0 2) = false →
    Completes (exec (.pset voice role value) s) s.pins
      (endStatus .reject (if 3 < voice.toNat then 0 else voice.extractLsb' 0 2)) s.rdata s.devs
      { s.path with cmdR := encode (.pset voice role value) } s.io

/-- R225: the channel of a role. -/
def Obligations.RolesMapToChannels : Prop :=
  roleChannel .gate = 3 ∧ roleChannel .pitch = 2 ∧ roleChannel .aux1 = 1 ∧ roleChannel .aux2 = 0 ∧
  ∀ (v w : Idx) (r q : Role), (v, roleChannel r) = (w, roleChannel q) → v = w ∧ r = q

/-- R226, R225: a PSET in range on a valid device with every check acknowledged sends the channel write of
the role's channel to the device of the voice, and writes the cache. -/
def Obligations.PsetWritesTheVoice : Prop :=
  ∀ (s : State) (voice : BitVec 4) (role : Role) (value : BitVec 16), s.quiet = true →
    voice.toNat ≤ 3 → value.toNat ≤ 4095 → vget s.devs.valid (voice.extractLsb' 0 2) = true →
    (∀ j < 4, s.io.answer j = false) →
    let dev : Idx := voice.extractLsb' 0 2
    let a := vget s.devs.addr dev ++ 0#1
    let k : Idx := 3 - role.code
    let v := value.extractLsb' 0 12
    Completes (exec (.pset voice role value) s) s.pins.idle (endStatus .ok 0) s.rdata
      (s.devs.withCell dev k v)
      { s.path with
        cmdR := encode (.pset voice role value), shreg := v.extractLsb' 0 8, smp := false, dly := 0
        opDev := dev, opCh := k, opVal := v, opAddr := vget s.devs.addr dev }
      (s.io.after 4 (lineOfChannelWrite a k v) (dataCondition s.pins true ++ wireOfChannelWrite a k v))

/-- R226, R186: a PSET whose n-th check is the first that is not acknowledged ends there with NO_ACK and the
device of the voice: the bus held, the cache unchanged. -/
def Obligations.PsetEndsAtTheFirstNack : Prop :=
  ∀ (s : State) (voice : BitVec 4) (role : Role) (value : BitVec 16) (n : Nat), s.quiet = true →
    voice.toNat ≤ 3 → value.toNat ≤ 4095 → vget s.devs.valid (voice.extractLsb' 0 2) = true → n < 4 →
    s.io.firstNack 0 n →
    let dev : Idx := voice.extractLsb' 0 2
    let k : Idx := 3 - role.code
    let bytes := channelBytes (vget s.devs.addr dev ++ 0#1) k (value.extractLsb' 0 12)
    Completes (exec (.pset voice role value) s) s.pins.held (endStatus .noAck dev) s.rdata s.devs
      { s.path with
        cmdR := encode (.pset voice role value), shreg := bytes.getD n 0, smp := true, dly := 0
        opDev := dev, opCh := k, opVal := value.extractLsb' 0 12, opAddr := vget s.devs.addr dev }
      (s.io.after (n + 1) (lineOfNack bytes n) (dataCondition s.pins true ++ wireOfNack bytes n))

/-! The whole machine. -/

/-- R41, R310: every command completes, in every state and whatever the host and the environment do: BUSY is
0, the sequencer is idle, and DONE is 1 unless a reset cut it. -/
def Obligations.EveryCommandCompletes : Prop :=
  ∀ (i : Instr) (s : State), ∃ t, exec i s = .next t ∧ t.status.busy = false ∧ t.pos.mpc = .idle ∧
    (s.noReset = true → t.status.done = true)

/-- R47, R137: every step keeps the state between commands in order. (BUSY = 0 and `mpc` IDLE after every step are
the model's, which runs a command in one step, log entry 1: inside a command the hardware has BUSY = 1. The state
inside a command is ActionsRunTheCommand's.) -/
def Obligations.StepKeepsTheInvariant : Prop := ∀ s t : State, s.Inv → step s = .next t → t.Inv

/-- The state after reset is in order. -/
def Obligations.ResetIsInOrder : Prop := State.reset.Inv

/-- R137: START, WRITE, WRITEL, READ and CHKACK end with the bus held and STOP with the bus idle, from either
entry state; every command ends at a boundary if it begins at one. -/
def Obligations.CommandsEndAtABoundary : Prop :=
  ∀ (i : Instr) (s t : State), exec i s = .next t →
    (s.atBoundary = true → t.atBoundary = true) ∧
    (s.noReset = true →
      (match i with
        | .start _ _ | .write _ | .writel _ _ | .read _ | .chkack => t.pins.scl = false ∧ t.pins.sda = false
        | .stop => t.pins.scl = true ∧ t.pins.sda = true
        | .devinit _ _ | .setch _ _ _ | .pinit | .pset _ _ _ => True))

/-- R131: nothing but a micro-op ever changes a pin: after a command the pins are those its line trace gives,
from the pins before it. (The token of a reset is the model's: log entry 7.) -/
def Obligations.PinsFollowTheLineTrace : Prop :=
  ∀ (i : Instr) (s t : State), exec i s = .next t →
    ∃ es, t.lineTrace = s.lineTrace ++ es ∧ t.pins = replay s.pins es

/-- R136: the conditions and latch edges of a command's byte trace are those its line trace makes. (Of a command
that a reset cuts, the reset's token shows no edge, log entry 7; the order of the edges of PI0's one clock edge is
the model's, log entry 12.) -/
def Obligations.ByteTraceFollowsTheLineTrace : Prop :=
  ∀ (i : Instr) (s t : State), exec i s = .next t →
    ∃ es ws, t.lineTrace = s.lineTrace ++ es ∧ t.byteTrace = s.byteTrace ++ ws ∧
      ws.filter WireEvent.isEdge = edgesOf s.pins es

/-- R134: every sample comes after `wait(H)` and immediately before `SCL <- 0`, with `scl_o = 1` and
`sda_o = 1`. -/
def Obligations.SamplesEndAHighPhase : Prop :=
  ∀ (i : Instr) (s t : State), s.noReset = true → exec i s = .next t →
    ∃ es, t.lineTrace = s.lineTrace ++ es ∧
      ∀ pre post b, es = pre ++ .sample b :: post →
        pre.getLast? = some (.wait .h) ∧ post.head? = some (.scl false) ∧
        (replay s.pins pre).scl = true ∧ (replay s.pins pre).sda = true

/-- R241: which command can end with which code. -/
def Obligations.CommandsEndWithTheirCodes : Prop :=
  ∀ (i : Instr) (s t : State), exec i s = .next t →
    match i with
    | .write _ | .writel _ _ | .read _ | .stop => t.status.err = .ok
    | .start _ _ | .chkack => t.status.err = .ok ∨ t.status.err = .noAck
    | .setch dev ch value => t.status.err = .ok ∨ t.status.err = .noAck ∨
        (t.status.err = .reject ∧ (3 < ch.toNat ∨ 4095 < value.toNat ∨ vget s.devs.valid dev = false))
    | .devinit _ sel => t.status.err = .ok ∨ t.status.err = .noAck ∨ t.status.err = .addrMismatch ∨
        (t.status.err = .reject ∧ sel = 0)
    | .pinit => t.status.err = .ok ∨ t.status.err = .noAck ∨ t.status.err = .addrMismatch
    | .pset voice _ value => t.status.err = .ok ∨ t.status.err = .noAck ∨
        (t.status.err = .reject ∧
          (3 < voice.toNat ∨ 4095 < value.toNat ∨ vget s.devs.valid (voice.extractLsb' 0 2) = false))

/-- R246: what ERR_DEV records; on ILLEGAL it is 0. -/
def Obligations.ErrDevNamesTheDevice : Prop :=
  (∀ (i : Instr) (s t : State), exec i s = .next t →
    (t.status.err = .ok → t.status.errDev = 0) ∧
    (t.status.err ≠ .ok →
      match i with
      | .start _ _ | .write _ | .writel _ _ | .read _ | .chkack | .stop => t.status.errDev = 0
      | .setch dev _ _ | .devinit dev _ => t.status.errDev = dev
      | .pset voice _ _ => t.status.errDev = if 3 < voice.toNat then 0 else voice.extractLsb' 0 2
      | .pinit => t.status.errDev = t.path.dloop)) ∧
  ∀ (w : Word) (e : DecodeReject) (s t : State), decode w = .error e → runCommand w s = .next t →
    t.status.errDev = 0

/-- R247: the lines after an abort: held after NO_ACK, idle after ADDR_MISMATCH, as they were after REJECT and
ILLEGAL; the latches too are as they were after REJECT and ILLEGAL. -/
def Obligations.LinesAfterAnAbort : Prop :=
  (∀ (i : Instr) (s t : State), exec i s = .next t →
    (t.status.err = .noAck → t.pins.scl = false ∧ t.pins.sda = false) ∧
    (t.status.err = .addrMismatch → t.pins.scl = true ∧ t.pins.sda = true) ∧
    (t.status.err = .reject → t.pins = s.pins ∧ t.rdata = s.rdata ∧ t.devs = s.devs)) ∧
  ∀ (w : Word) (e : DecodeReject) (s t : State), decode w = .error e → runCommand w s = .next t →
    t.status.err = .illegal → t.pins = s.pins ∧ t.rdata = s.rdata ∧ t.devs = s.devs

/-- R24: latch `d` is moved by WRITEL and DEVINIT of device `d` and by PINIT, and by no other command. -/
def Obligations.LatchesBelongToTheirDevice : Prop :=
  ∀ (i : Instr) (s t : State) (d : Idx), s.noReset = true → exec i s = .next t →
    (match i with
      | .writel _ dev | .devinit dev _ => d ≠ dev
      | .pinit => False
      | .start _ _ | .write _ | .read _ | .chkack | .stop | .setch _ _ _ | .pset _ _ _ => True) →
    vget t.pins.ldac d = vget s.pins.ldac d

/-- R37, R38: the per-device registers change only as the rules say: a primitive changes none of them; SETCH
and PSET change at most one cache cell, to the value sent, and only when they end with success; DEVINIT
changes only the registers of its own device. -/
def Obligations.DeviceRegistersChangeOnlyByTheirCommands : Prop :=
  ∀ (i : Instr) (s t : State), s.noReset = true → exec i s = .next t →
    match i with
    | .start _ _ | .write _ | .writel _ _ | .read _ | .chkack | .stop => t.devs = s.devs
    | .setch dev ch value => t.devs =
        if t.status.err = .ok then s.devs.withCell dev (ch.extractLsb' 0 2) (value.extractLsb' 0 12)
        else s.devs
    | .pset voice role value => t.devs =
        if t.status.err = .ok then
          s.devs.withCell (voice.extractLsb' 0 2) (3 - role.code) (value.extractLsb' 0 12)
        else s.devs
    | .devinit dev sel =>
        (∀ d : Idx, d ≠ dev → vget t.devs.valid d = vget s.devs.valid d ∧
          vget t.devs.addr d = vget s.devs.addr d ∧ vget t.devs.cache d = vget s.devs.cache d) ∧
        (t.status.err = .ok → t.devs = s.devs.constructed dev sel) ∧
        (t.status.err = .noAck ∨ t.status.err = .addrMismatch → vget t.devs.valid dev = false)
    | .pinit => t.status.err = .ok → t.devs = panelDevices

/-- R35: RDATA is written by READ and by the readback of DEVINIT and PINIT, and by no other command. -/
def Obligations.RdataIsWrittenOnlyByReads : Prop :=
  ∀ (i : Instr) (s t : State), s.noReset = true → exec i s = .next t →
    (match i with
      | .read _ | .devinit _ _ | .pinit => False
      | .start _ _ | .write _ | .writel _ _ | .chkack | .stop | .setch _ _ _ | .pset _ _ _ => True) →
    t.rdata = s.rdata

/-- R119: the address bytes a composite command can send: the general call, the discovery read, and the write
address bytes of the device addresses. -/
def Obligations.CompositeAddressBytes : Prop :=
  ∀ (i : Instr) (s t : State), s.Inv → exec i s = .next t →
    (match i with
      | .devinit _ _ | .setch _ _ _ | .pinit | .pset _ _ _ => True
      | .start _ _ | .write _ | .writel _ _ | .read _ | .chkack | .stop => False) →
    ∃ ws, t.byteTrace = s.byteTrace ++ ws ∧
      ∀ pre post b, ws = pre ++ .start :: .wrote b :: post →
        b ∈ [0x00#8, 0xC1#8, 0xC0#8, 0xC2#8, 0xC4#8, 0xC6#8, 0xC8#8, 0xCA#8, 0xCC#8, 0xCE#8]

/-- E7 of 95_test_vectors.md: on a bus on which nothing answers, every command that requires an acknowledge
ends with NO_ACK after its first byte. (The order of the edge tokens of PI0's one clock edge, in the clause on PINIT,
is the model's: log entry 12.) -/
def Obligations.SilentBusEndsAtTheFirstByte : Prop :=
  ∀ s : State, s.quiet = true → s.atBoundary = true → s.io.answer 0 = true →
    (∀ addr rd, ∃ t, exec (.start addr rd) s = .next t ∧ t.status.err = .noAck ∧
      t.byteTrace = s.byteTrace ++ wireOfStart (addr ++ BitVec.ofBool rd) true) ∧
    (∀ dev ch value, ch.toNat ≤ 3 → value.toNat ≤ 4095 → vget s.devs.valid dev = true →
      ∃ t, exec (.setch dev ch value) s = .next t ∧ t.status.err = .noAck ∧
        t.byteTrace = s.byteTrace ++ wireOfStart (vget s.devs.addr dev ++ 0#1) true) ∧
    (∀ dev sel, sel ≠ 0 → ∃ t, exec (.devinit dev sel) s = .next t ∧ t.status.err = .noAck ∧
      t.byteTrace = s.byteTrace ++ latchEdge s.pins dev true ++ wireOfStart 0x00 true) ∧
    (∀ voice role value, voice.toNat ≤ 3 → value.toNat ≤ 4095 →
      vget s.devs.valid (voice.extractLsb' 0 2) = true →
      ∃ t, exec (.pset voice role value) s = .next t ∧ t.status.err = .noAck ∧
        t.byteTrace = s.byteTrace ++ wireOfStart (vget s.devs.addr (voice.extractLsb' 0 2) ++ 0#1) true) ∧
    (∃ t, exec .chkack s = .next t ∧ t.status.err = .noAck ∧ t.byteTrace = s.byteTrace ++ [.nack]) ∧
    (∃ t, exec .pinit s = .next t ∧ t.status.err = .noAck ∧ t.status.errDev = 0 ∧
      t.byteTrace = s.byteTrace ++ wireOfPanelLatches s.pins ++ wireOfStart 0x00 true)

/-! Values and timing. -/

/-- R184: under the default check bits exactly eight readback bytes are valid. -/
def Obligations.EightReadbackBytesAreValid : Prop :=
  ∀ rb : Byte, readbackValidWith { mask := 0x11, value := 0x10 } rb = true ↔ rb ∈ [0x10#8, 0x32#8, 0x54#8, 0x76#8, 0x98#8, 0xBA#8, 0xDC#8, 0xFE#8]

/-- R182: the bytes of a channel write carry the value exactly and the channel in bits 2 and 1; the address
bytes and the re-addressing bytes never overlap their fields. -/
def Obligations.WireBytesCarryTheirFields : Prop :=
  (∀ v : ChanValue, (channelByte1 v).extractLsb' 0 4 ++ channelByte2 v = v ∧
    (channelByte1 v).extractLsb' 4 4 = 0x8) ∧
  (∀ k : Idx, channelByte0 k = 0x08#5 ++ k ++ 0#1) ∧
  (∀ a : Selector, readdressByte0 a = 0x3#3 ++ a ++ 0x1#2 ∧ readdressByte1 a = 0x3#3 ++ a ++ 0x2#2 ∧
    readdressByte2 a = 0x3#3 ++ a ++ 0x3#2 ∧ deviceAddr a = 0xC#4 ++ a) ∧
  (∀ (a : BusAddr) (rd : Bool), (addressByte a rd).toNat = 2 * a.toNat + rd.toNat)

/-- R8, R9, R313: with legal parameters the delays are positive, the half delay is twice the quarter delay or
one more, and both fit their 16-bit fields. -/
def Obligations.DelaysOfLegalParameters : Prop :=
  ∀ p : Config.Params, 1 ≤ p.quarter ∧ 2 ≤ p.half ∧ 2 * p.quarter ≤ p.half ∧ p.half ≤ 2 * p.quarter + 1 ∧
    (BitVec.ofNat 16 p.quarter).toNat = p.quarter ∧ (BitVec.ofNat 16 p.half).toNat = p.half

/-- R311: the least cycle counts of the primitives and of a channel write, for delays of `q` and `h` counts. -/
def Obligations.PrimitiveCycleCounts : Prop :=
  ∀ (s : State) (q h : Nat), s.quiet = true →
    let takes := fun (i : Instr) (n : Nat) => ∃ t es, exec i s = .next t ∧
      t.lineTrace = s.lineTrace ++ es ∧ cyclesOf q h es = n
    cyclesOf q h lineOfCondStart = 4 + 2 * q + 2 * h ∧
    (∀ addr rd, takes (.start addr rd) (41 + 20 * q + 11 * h)) ∧
    (∀ b, takes (.write b) (8 * (4 + 2 * q + h))) ∧
    (∀ b d, takes (.writel b d) (8 * (4 + 2 * q + h))) ∧
    (∀ ack, takes (.read ack) (29 + 18 * q + 9 * h)) ∧
    takes .chkack (5 + 2 * q + h) ∧
    takes .stop (2 + 2 * h) ∧
    (∀ dev ch value, ch.toNat ≤ 3 → value.toNat ≤ 4095 → vget s.devs.valid dev = true →
      (∀ j < 4, s.io.answer j = false) →
      takes (.setch dev ch value)
        ((41 + 20 * q + 11 * h) + 3 * (8 * (4 + 2 * q + h) + (5 + 2 * q + h)) + (2 + 2 * h)))

/-! The engine action by action, the check bits, the host of the command text. -/

/-- R40, R32: a command run action by action from its acceptance, with the host's accesses in the gaps between the
actions, ends in the very state that `exec` gives; so does a word that does not decode. (How a command is cut into
actions is the model's: log entries 1, 4 and 22.) The first clause, that the machine never stops, is the model's and
no rule's where it speaks of states with BUSY = 1 that no command reaches: there the same tables run the engine, log
entry 28. -/
def Obligations.ActionsRunTheCommand : Prop :=
  (∀ s : State, ∃ t, step s = .next t) ∧
  (∀ (i : Instr) (s : State), s.path.dly = 0 →
    ∃ n t, exec i s = .next t ∧ runWhileBusy n (s.accept (encode i)) = t) ∧
  ∀ (w : Word) (e : DecodeReject) (s : State), decode w = .error e →
    ∃ n t, runCommand w s = .next t ∧ runWhileBusy n (s.accept w) = t

/-- R184, R7 (U5): whatever the check bits of the block, a DEVINIT, and a PINIT at its first device, whose discovery
is acknowledged ends with ADDR_MISMATCH exactly when the two copies of the selector differ or the check bits do not
have the required pattern; the block of `exec` has the default check bits. -/
def Obligations.CheckBitsDecideTheMismatch : Prop :=
  (∀ (c : Config.CheckBits) (s : State) (dev : Idx) (sel : Selector), s.quiet = true → sel ≠ 0 →
    s.io.discovered 0 →
    let rb := s.io.readback 0
    let wrong := rb.extractLsb' 5 3 ≠ rb.extractLsb' 1 3 ∨ rb &&& c.mask ≠ c.value
    (∃ t, devinitWith c dev sel s = .next t ∧ (t.status.err = .addrMismatch ↔ wrong)) ∧
    ∃ t, pinitWith c s = .next t ∧ (t.status.err = .addrMismatch ∧ t.status.errDev = 0 ↔ wrong)) ∧
  ∀ (s : State) (dev : Idx) (sel : Selector),
    exec (.devinit dev sel) s = devinitWith { mask := 0x11, value := 0x10 } dev sel s ∧
    exec .pinit s = pinitWith { mask := 0x11, value := 0x10 } s

/-- R101: a WRITEA whose CHKACK ends with NO_ACK stops the host's sequence: no later line is run. After one that is
acknowledged, and after every line that is no WRITEA, the sequence goes on with the next line; a sequence with a line
out of range is refused. (The host is the model's own: log entry 29.) -/
def Obligations.WriteaStopsTheSequence : Prop :=
  ∀ (s : State) (as : List Asm), s.status.busy = false → s.io.port = [] →
    ((∀ a ∈ as, a.wellFormed = true) →
      (∀ b < 0x100,
        (s.io.answer 0 = true → ∃ t, t.status.err = .noAck ∧
          hostProgram [.writea b] s = some t ∧ hostProgram (.writea b :: as) s = some t) ∧
        (s.io.answer 0 = false → ∃ t, t.status.err = .ok ∧
          hostProgram [.writea b] s = some t ∧ hostProgram (.writea b :: as) s = hostProgram as t)) ∧
      ∀ a : Asm, a.wellFormed = true → (∀ b, a ≠ .writea b) →
        ∃ t, hostProgram [a] s = some t ∧ hostProgram (a :: as) s = hostProgram as t) ∧
    ((∃ a ∈ as, a.wellFormed = false) → hostProgram as s = none)
end

