-- ==== Sys2Proof/Laws/State.lean ====
section
/-!
SUPPORT. One lemma per field group per update of the state, true by unfolding, so that no later proof
unfolds a record update.
-/

namespace Sys2Proof.Machine

variable (s : State)

/-! The seven updates. -/

@[simp] theorem State.withPins_pins (x : Pins) : (s.withPins x).pins = x := rfl
@[simp] theorem State.withPins_status (x : Pins) : (s.withPins x).status = s.status := rfl
@[simp] theorem State.withPins_rdata (x : Pins) : (s.withPins x).rdata = s.rdata := rfl
@[simp] theorem State.withPins_devs (x : Pins) : (s.withPins x).devs = s.devs := rfl
@[simp] theorem State.withPins_path (x : Pins) : (s.withPins x).path = s.path := rfl
@[simp] theorem State.withPins_pos (x : Pins) : (s.withPins x).pos = s.pos := rfl
@[simp] theorem State.withPins_io (x : Pins) : (s.withPins x).io = s.io := rfl
@[simp] theorem State.withPins_withPins (x y : Pins) : (s.withPins x).withPins y = s.withPins y := rfl

@[simp] theorem State.withStatus_pins (x : Status) : (s.withStatus x).pins = s.pins := rfl
@[simp] theorem State.withStatus_status (x : Status) : (s.withStatus x).status = x := rfl
@[simp] theorem State.withStatus_rdata (x : Status) : (s.withStatus x).rdata = s.rdata := rfl
@[simp] theorem State.withStatus_devs (x : Status) : (s.withStatus x).devs = s.devs := rfl
@[simp] theorem State.withStatus_path (x : Status) : (s.withStatus x).path = s.path := rfl
@[simp] theorem State.withStatus_pos (x : Status) : (s.withStatus x).pos = s.pos := rfl
@[simp] theorem State.withStatus_io (x : Status) : (s.withStatus x).io = s.io := rfl
@[simp] theorem State.withStatus_withStatus (x y : Status) : (s.withStatus x).withStatus y = s.withStatus y := rfl

@[simp] theorem State.withRdata_pins (x : Byte) : (s.withRdata x).pins = s.pins := rfl
@[simp] theorem State.withRdata_status (x : Byte) : (s.withRdata x).status = s.status := rfl
@[simp] theorem State.withRdata_rdata (x : Byte) : (s.withRdata x).rdata = x := rfl
@[simp] theorem State.withRdata_devs (x : Byte) : (s.withRdata x).devs = s.devs := rfl
@[simp] theorem State.withRdata_path (x : Byte) : (s.withRdata x).path = s.path := rfl
@[simp] theorem State.withRdata_pos (x : Byte) : (s.withRdata x).pos = s.pos := rfl
@[simp] theorem State.withRdata_io (x : Byte) : (s.withRdata x).io = s.io := rfl
@[simp] theorem State.withRdata_withRdata (x y : Byte) : (s.withRdata x).withRdata y = s.withRdata y := rfl

@[simp] theorem State.withDevs_pins (x : Devices) : (s.withDevs x).pins = s.pins := rfl
@[simp] theorem State.withDevs_status (x : Devices) : (s.withDevs x).status = s.status := rfl
@[simp] theorem State.withDevs_rdata (x : Devices) : (s.withDevs x).rdata = s.rdata := rfl
@[simp] theorem State.withDevs_devs (x : Devices) : (s.withDevs x).devs = x := rfl
@[simp] theorem State.withDevs_path (x : Devices) : (s.withDevs x).path = s.path := rfl
@[simp] theorem State.withDevs_pos (x : Devices) : (s.withDevs x).pos = s.pos := rfl
@[simp] theorem State.withDevs_io (x : Devices) : (s.withDevs x).io = s.io := rfl
@[simp] theorem State.withDevs_withDevs (x y : Devices) : (s.withDevs x).withDevs y = s.withDevs y := rfl

@[simp] theorem State.withPath_pins (x : Datapath) : (s.withPath x).pins = s.pins := rfl
@[simp] theorem State.withPath_status (x : Datapath) : (s.withPath x).status = s.status := rfl
@[simp] theorem State.withPath_rdata (x : Datapath) : (s.withPath x).rdata = s.rdata := rfl
@[simp] theorem State.withPath_devs (x : Datapath) : (s.withPath x).devs = s.devs := rfl
@[simp] theorem State.withPath_path (x : Datapath) : (s.withPath x).path = x := rfl
@[simp] theorem State.withPath_pos (x : Datapath) : (s.withPath x).pos = s.pos := rfl
@[simp] theorem State.withPath_io (x : Datapath) : (s.withPath x).io = s.io := rfl
@[simp] theorem State.withPath_withPath (x y : Datapath) : (s.withPath x).withPath y = s.withPath y := rfl

@[simp] theorem State.withPos_pins (x : Position) : (s.withPos x).pins = s.pins := rfl
@[simp] theorem State.withPos_status (x : Position) : (s.withPos x).status = s.status := rfl
@[simp] theorem State.withPos_rdata (x : Position) : (s.withPos x).rdata = s.rdata := rfl
@[simp] theorem State.withPos_devs (x : Position) : (s.withPos x).devs = s.devs := rfl
@[simp] theorem State.withPos_path (x : Position) : (s.withPos x).path = s.path := rfl
@[simp] theorem State.withPos_pos (x : Position) : (s.withPos x).pos = x := rfl
@[simp] theorem State.withPos_io (x : Position) : (s.withPos x).io = s.io := rfl
@[simp] theorem State.withPos_withPos (x y : Position) : (s.withPos x).withPos y = s.withPos y := rfl

@[simp] theorem State.withIo_pins (x : Io) : (s.withIo x).pins = s.pins := rfl
@[simp] theorem State.withIo_status (x : Io) : (s.withIo x).status = s.status := rfl
@[simp] theorem State.withIo_rdata (x : Io) : (s.withIo x).rdata = s.rdata := rfl
@[simp] theorem State.withIo_devs (x : Io) : (s.withIo x).devs = s.devs := rfl
@[simp] theorem State.withIo_path (x : Io) : (s.withIo x).path = s.path := rfl
@[simp] theorem State.withIo_pos (x : Io) : (s.withIo x).pos = s.pos := rfl
@[simp] theorem State.withIo_io (x : Io) : (s.withIo x).io = x := rfl
@[simp] theorem State.withIo_withIo (x y : Io) : (s.withIo x).withIo y = s.withIo y := rfl

/-! The named updates: the group each one changes, and the others unchanged. -/

@[simp] theorem State.setScl_pins (v : Bool) : (s.setScl v).pins = { s.pins with scl := v } := rfl
@[simp] theorem State.setScl_status (v : Bool) : (s.setScl v).status = s.status := rfl
@[simp] theorem State.setScl_rdata (v : Bool) : (s.setScl v).rdata = s.rdata := rfl
@[simp] theorem State.setScl_devs (v : Bool) : (s.setScl v).devs = s.devs := rfl
@[simp] theorem State.setScl_path (v : Bool) : (s.setScl v).path = s.path := rfl
@[simp] theorem State.setScl_pos (v : Bool) : (s.setScl v).pos = s.pos := rfl
@[simp] theorem State.setScl_io (v : Bool) : (s.setScl v).io = s.io := rfl

@[simp] theorem State.setSda_pins (v : Bool) : (s.setSda v).pins = { s.pins with sda := v } := rfl
@[simp] theorem State.setSda_status (v : Bool) : (s.setSda v).status = s.status := rfl
@[simp] theorem State.setSda_rdata (v : Bool) : (s.setSda v).rdata = s.rdata := rfl
@[simp] theorem State.setSda_devs (v : Bool) : (s.setSda v).devs = s.devs := rfl
@[simp] theorem State.setSda_path (v : Bool) : (s.setSda v).path = s.path := rfl
@[simp] theorem State.setSda_pos (v : Bool) : (s.setSda v).pos = s.pos := rfl
@[simp] theorem State.setSda_io (v : Bool) : (s.setSda v).io = s.io := rfl

@[simp] theorem State.setLdac_pins (d : Idx) (v : Bool) : (s.setLdac d v).pins = { s.pins with ldac := vset s.pins.ldac d v } := rfl
@[simp] theorem State.setLdac_status (d : Idx) (v : Bool) : (s.setLdac d v).status = s.status := rfl
@[simp] theorem State.setLdac_rdata (d : Idx) (v : Bool) : (s.setLdac d v).rdata = s.rdata := rfl
@[simp] theorem State.setLdac_devs (d : Idx) (v : Bool) : (s.setLdac d v).devs = s.devs := rfl
@[simp] theorem State.setLdac_path (d : Idx) (v : Bool) : (s.setLdac d v).path = s.path := rfl
@[simp] theorem State.setLdac_pos (d : Idx) (v : Bool) : (s.setLdac d v).pos = s.pos := rfl
@[simp] theorem State.setLdac_io (d : Idx) (v : Bool) : (s.setLdac d v).io = s.io := rfl

@[simp] theorem State.setAllLdac_pins : (s.setAllLdac).pins = { s.pins with ldac := Vector.replicate 4 true } := rfl
@[simp] theorem State.setAllLdac_status : (s.setAllLdac).status = s.status := rfl
@[simp] theorem State.setAllLdac_rdata : (s.setAllLdac).rdata = s.rdata := rfl
@[simp] theorem State.setAllLdac_devs : (s.setAllLdac).devs = s.devs := rfl
@[simp] theorem State.setAllLdac_path : (s.setAllLdac).path = s.path := rfl
@[simp] theorem State.setAllLdac_pos : (s.setAllLdac).pos = s.pos := rfl
@[simp] theorem State.setAllLdac_io : (s.setAllLdac).io = s.io := rfl

@[simp] theorem State.setAddr_pins (d : Idx) (a : BusAddr) : (s.setAddr d a).pins = s.pins := rfl
@[simp] theorem State.setAddr_status (d : Idx) (a : BusAddr) : (s.setAddr d a).status = s.status := rfl
@[simp] theorem State.setAddr_rdata (d : Idx) (a : BusAddr) : (s.setAddr d a).rdata = s.rdata := rfl
@[simp] theorem State.setAddr_devs (d : Idx) (a : BusAddr) : (s.setAddr d a).devs = { s.devs with addr := vset s.devs.addr d a } := rfl
@[simp] theorem State.setAddr_path (d : Idx) (a : BusAddr) : (s.setAddr d a).path = s.path := rfl
@[simp] theorem State.setAddr_pos (d : Idx) (a : BusAddr) : (s.setAddr d a).pos = s.pos := rfl
@[simp] theorem State.setAddr_io (d : Idx) (a : BusAddr) : (s.setAddr d a).io = s.io := rfl

@[simp] theorem State.setValid_pins (d : Idx) (v : Bool) : (s.setValid d v).pins = s.pins := rfl
@[simp] theorem State.setValid_status (d : Idx) (v : Bool) : (s.setValid d v).status = s.status := rfl
@[simp] theorem State.setValid_rdata (d : Idx) (v : Bool) : (s.setValid d v).rdata = s.rdata := rfl
@[simp] theorem State.setValid_devs (d : Idx) (v : Bool) : (s.setValid d v).devs = { s.devs with valid := vset s.devs.valid d v } := rfl
@[simp] theorem State.setValid_path (d : Idx) (v : Bool) : (s.setValid d v).path = s.path := rfl
@[simp] theorem State.setValid_pos (d : Idx) (v : Bool) : (s.setValid d v).pos = s.pos := rfl
@[simp] theorem State.setValid_io (d : Idx) (v : Bool) : (s.setValid d v).io = s.io := rfl

@[simp] theorem State.clearAllValid_pins : (s.clearAllValid).pins = s.pins := rfl
@[simp] theorem State.clearAllValid_status : (s.clearAllValid).status = s.status := rfl
@[simp] theorem State.clearAllValid_rdata : (s.clearAllValid).rdata = s.rdata := rfl
@[simp] theorem State.clearAllValid_devs : (s.clearAllValid).devs = { s.devs with valid := Vector.replicate 4 false } := rfl
@[simp] theorem State.clearAllValid_path : (s.clearAllValid).path = s.path := rfl
@[simp] theorem State.clearAllValid_pos : (s.clearAllValid).pos = s.pos := rfl
@[simp] theorem State.clearAllValid_io : (s.clearAllValid).io = s.io := rfl

@[simp] theorem State.setCache_pins (d k : Idx) (v : ChanValue) : (s.setCache d k v).pins = s.pins := rfl
@[simp] theorem State.setCache_status (d k : Idx) (v : ChanValue) : (s.setCache d k v).status = s.status := rfl
@[simp] theorem State.setCache_rdata (d k : Idx) (v : ChanValue) : (s.setCache d k v).rdata = s.rdata := rfl
@[simp] theorem State.setCache_devs (d k : Idx) (v : ChanValue) : (s.setCache d k v).devs = { s.devs with cache := vset s.devs.cache d (vset (vget s.devs.cache d) k v) } := rfl
@[simp] theorem State.setCache_path (d k : Idx) (v : ChanValue) : (s.setCache d k v).path = s.path := rfl
@[simp] theorem State.setCache_pos (d k : Idx) (v : ChanValue) : (s.setCache d k v).pos = s.pos := rfl
@[simp] theorem State.setCache_io (d k : Idx) (v : ChanValue) : (s.setCache d k v).io = s.io := rfl

@[simp] theorem State.setShreg_pins (b : Byte) : (s.setShreg b).pins = s.pins := rfl
@[simp] theorem State.setShreg_status (b : Byte) : (s.setShreg b).status = s.status := rfl
@[simp] theorem State.setShreg_rdata (b : Byte) : (s.setShreg b).rdata = s.rdata := rfl
@[simp] theorem State.setShreg_devs (b : Byte) : (s.setShreg b).devs = s.devs := rfl
@[simp] theorem State.setShreg_path (b : Byte) : (s.setShreg b).path = { s.path with shreg := b } := rfl
@[simp] theorem State.setShreg_pos (b : Byte) : (s.setShreg b).pos = s.pos := rfl
@[simp] theorem State.setShreg_io (b : Byte) : (s.setShreg b).io = s.io := rfl

@[simp] theorem State.setSmp_pins (b : Bool) : (s.setSmp b).pins = s.pins := rfl
@[simp] theorem State.setSmp_status (b : Bool) : (s.setSmp b).status = s.status := rfl
@[simp] theorem State.setSmp_rdata (b : Bool) : (s.setSmp b).rdata = s.rdata := rfl
@[simp] theorem State.setSmp_devs (b : Bool) : (s.setSmp b).devs = s.devs := rfl
@[simp] theorem State.setSmp_path (b : Bool) : (s.setSmp b).path = { s.path with smp := b } := rfl
@[simp] theorem State.setSmp_pos (b : Bool) : (s.setSmp b).pos = s.pos := rfl
@[simp] theorem State.setSmp_io (b : Bool) : (s.setSmp b).io = s.io := rfl

@[simp] theorem State.setDly_pins (n : BitVec 16) : (s.setDly n).pins = s.pins := rfl
@[simp] theorem State.setDly_status (n : BitVec 16) : (s.setDly n).status = s.status := rfl
@[simp] theorem State.setDly_rdata (n : BitVec 16) : (s.setDly n).rdata = s.rdata := rfl
@[simp] theorem State.setDly_devs (n : BitVec 16) : (s.setDly n).devs = s.devs := rfl
@[simp] theorem State.setDly_path (n : BitVec 16) : (s.setDly n).path = { s.path with dly := n } := rfl
@[simp] theorem State.setDly_pos (n : BitVec 16) : (s.setDly n).pos = s.pos := rfl
@[simp] theorem State.setDly_io (n : BitVec 16) : (s.setDly n).io = s.io := rfl

@[simp] theorem State.setRb_pins (b : Byte) : (s.setRb b).pins = s.pins := rfl
@[simp] theorem State.setRb_status (b : Byte) : (s.setRb b).status = s.status := rfl
@[simp] theorem State.setRb_rdata (b : Byte) : (s.setRb b).rdata = s.rdata := rfl
@[simp] theorem State.setRb_devs (b : Byte) : (s.setRb b).devs = s.devs := rfl
@[simp] theorem State.setRb_path (b : Byte) : (s.setRb b).path = { s.path with rb := b } := rfl
@[simp] theorem State.setRb_pos (b : Byte) : (s.setRb b).pos = s.pos := rfl
@[simp] theorem State.setRb_io (b : Byte) : (s.setRb b).io = s.io := rfl

@[simp] theorem State.setCurA_pins (a : Selector) : (s.setCurA a).pins = s.pins := rfl
@[simp] theorem State.setCurA_status (a : Selector) : (s.setCurA a).status = s.status := rfl
@[simp] theorem State.setCurA_rdata (a : Selector) : (s.setCurA a).rdata = s.rdata := rfl
@[simp] theorem State.setCurA_devs (a : Selector) : (s.setCurA a).devs = s.devs := rfl
@[simp] theorem State.setCurA_path (a : Selector) : (s.setCurA a).path = { s.path with curA := a } := rfl
@[simp] theorem State.setCurA_pos (a : Selector) : (s.setCurA a).pos = s.pos := rfl
@[simp] theorem State.setCurA_io (a : Selector) : (s.setCurA a).io = s.io := rfl

@[simp] theorem State.setKloop_pins (k : Idx) : (s.setKloop k).pins = s.pins := rfl
@[simp] theorem State.setKloop_status (k : Idx) : (s.setKloop k).status = s.status := rfl
@[simp] theorem State.setKloop_rdata (k : Idx) : (s.setKloop k).rdata = s.rdata := rfl
@[simp] theorem State.setKloop_devs (k : Idx) : (s.setKloop k).devs = s.devs := rfl
@[simp] theorem State.setKloop_path (k : Idx) : (s.setKloop k).path = { s.path with kloop := k } := rfl
@[simp] theorem State.setKloop_pos (k : Idx) : (s.setKloop k).pos = s.pos := rfl
@[simp] theorem State.setKloop_io (k : Idx) : (s.setKloop k).io = s.io := rfl

@[simp] theorem State.setDloop_pins (d : Idx) : (s.setDloop d).pins = s.pins := rfl
@[simp] theorem State.setDloop_status (d : Idx) : (s.setDloop d).status = s.status := rfl
@[simp] theorem State.setDloop_rdata (d : Idx) : (s.setDloop d).rdata = s.rdata := rfl
@[simp] theorem State.setDloop_devs (d : Idx) : (s.setDloop d).devs = s.devs := rfl
@[simp] theorem State.setDloop_path (d : Idx) : (s.setDloop d).path = { s.path with dloop := d } := rfl
@[simp] theorem State.setDloop_pos (d : Idx) : (s.setDloop d).pos = s.pos := rfl
@[simp] theorem State.setDloop_io (d : Idx) : (s.setDloop d).io = s.io := rfl

@[simp] theorem State.setOperands_pins (d k : Idx) (v : ChanValue) (a : BusAddr) : (s.setOperands d k v a).pins = s.pins := rfl
@[simp] theorem State.setOperands_status (d k : Idx) (v : ChanValue) (a : BusAddr) : (s.setOperands d k v a).status = s.status := rfl
@[simp] theorem State.setOperands_rdata (d k : Idx) (v : ChanValue) (a : BusAddr) : (s.setOperands d k v a).rdata = s.rdata := rfl
@[simp] theorem State.setOperands_devs (d k : Idx) (v : ChanValue) (a : BusAddr) : (s.setOperands d k v a).devs = s.devs := rfl
@[simp] theorem State.setOperands_path (d k : Idx) (v : ChanValue) (a : BusAddr) : (s.setOperands d k v a).path = { s.path with opDev := d, opCh := k, opVal := v, opAddr := a } := rfl
@[simp] theorem State.setOperands_pos (d k : Idx) (v : ChanValue) (a : BusAddr) : (s.setOperands d k v a).pos = s.pos := rfl
@[simp] theorem State.setOperands_io (d k : Idx) (v : ChanValue) (a : BusAddr) : (s.setOperands d k v a).io = s.io := rfl

@[simp] theorem State.goto_pins (l : Label) : (s.goto l).pins = s.pins := rfl
@[simp] theorem State.goto_status (l : Label) : (s.goto l).status = s.status := rfl
@[simp] theorem State.goto_rdata (l : Label) : (s.goto l).rdata = s.rdata := rfl
@[simp] theorem State.goto_devs (l : Label) : (s.goto l).devs = s.devs := rfl
@[simp] theorem State.goto_path (l : Label) : (s.goto l).path = s.path := rfl
@[simp] theorem State.goto_pos (l : Label) : (s.goto l).pos = { s.pos with mpc := l, upc := 0 } := rfl
@[simp] theorem State.goto_io (l : Label) : (s.goto l).io = s.io := rfl

@[simp] theorem State.nextUop_pins : (s.nextUop).pins = s.pins := rfl
@[simp] theorem State.nextUop_status : (s.nextUop).status = s.status := rfl
@[simp] theorem State.nextUop_rdata : (s.nextUop).rdata = s.rdata := rfl
@[simp] theorem State.nextUop_devs : (s.nextUop).devs = s.devs := rfl
@[simp] theorem State.nextUop_path : (s.nextUop).path = s.path := rfl
@[simp] theorem State.nextUop_pos : (s.nextUop).pos = { s.pos with upc := s.pos.upc + 1 } := rfl
@[simp] theorem State.nextUop_io : (s.nextUop).io = s.io := rfl

@[simp] theorem State.atBit_pins (b : BitVec 3) (n : Nat) : (s.atBit b n).pins = s.pins := rfl
@[simp] theorem State.atBit_status (b : BitVec 3) (n : Nat) : (s.atBit b n).status = s.status := rfl
@[simp] theorem State.atBit_rdata (b : BitVec 3) (n : Nat) : (s.atBit b n).rdata = s.rdata := rfl
@[simp] theorem State.atBit_devs (b : BitVec 3) (n : Nat) : (s.atBit b n).devs = s.devs := rfl
@[simp] theorem State.atBit_path (b : BitVec 3) (n : Nat) : (s.atBit b n).path = s.path := rfl
@[simp] theorem State.atBit_pos (b : BitVec 3) (n : Nat) : (s.atBit b n).pos = { s.pos with bit := b, upc := n } := rfl
@[simp] theorem State.atBit_io (b : BitVec 3) (n : Nat) : (s.atBit b n).io = s.io := rfl

@[simp] theorem State.setCwRet_pins (l : Label) : (s.setCwRet l).pins = s.pins := rfl
@[simp] theorem State.setCwRet_status (l : Label) : (s.setCwRet l).status = s.status := rfl
@[simp] theorem State.setCwRet_rdata (l : Label) : (s.setCwRet l).rdata = s.rdata := rfl
@[simp] theorem State.setCwRet_devs (l : Label) : (s.setCwRet l).devs = s.devs := rfl
@[simp] theorem State.setCwRet_path (l : Label) : (s.setCwRet l).path = s.path := rfl
@[simp] theorem State.setCwRet_pos (l : Label) : (s.setCwRet l).pos = { s.pos with cwRet := l } := rfl
@[simp] theorem State.setCwRet_io (l : Label) : (s.setCwRet l).io = s.io := rfl

@[simp] theorem State.setDiRet_pins (l : Label) : (s.setDiRet l).pins = s.pins := rfl
@[simp] theorem State.setDiRet_status (l : Label) : (s.setDiRet l).status = s.status := rfl
@[simp] theorem State.setDiRet_rdata (l : Label) : (s.setDiRet l).rdata = s.rdata := rfl
@[simp] theorem State.setDiRet_devs (l : Label) : (s.setDiRet l).devs = s.devs := rfl
@[simp] theorem State.setDiRet_path (l : Label) : (s.setDiRet l).path = s.path := rfl
@[simp] theorem State.setDiRet_pos (l : Label) : (s.setDiRet l).pos = { s.pos with diRet := l } := rfl
@[simp] theorem State.setDiRet_io (l : Label) : (s.setDiRet l).io = s.io := rfl

@[simp] theorem State.setPort_pins (es : List PortEvent) : (s.setPort es).pins = s.pins := rfl
@[simp] theorem State.setPort_status (es : List PortEvent) : (s.setPort es).status = s.status := rfl
@[simp] theorem State.setPort_rdata (es : List PortEvent) : (s.setPort es).rdata = s.rdata := rfl
@[simp] theorem State.setPort_devs (es : List PortEvent) : (s.setPort es).devs = s.devs := rfl
@[simp] theorem State.setPort_path (es : List PortEvent) : (s.setPort es).path = s.path := rfl
@[simp] theorem State.setPort_pos (es : List PortEvent) : (s.setPort es).pos = s.pos := rfl
@[simp] theorem State.setPort_io (es : List PortEvent) : (s.setPort es).io = { s.io with port := es } := rfl

@[simp] theorem State.logLine_pins (e : LineEvent) : (s.logLine e).pins = s.pins := rfl
@[simp] theorem State.logLine_status (e : LineEvent) : (s.logLine e).status = s.status := rfl
@[simp] theorem State.logLine_rdata (e : LineEvent) : (s.logLine e).rdata = s.rdata := rfl
@[simp] theorem State.logLine_devs (e : LineEvent) : (s.logLine e).devs = s.devs := rfl
@[simp] theorem State.logLine_path (e : LineEvent) : (s.logLine e).path = s.path := rfl
@[simp] theorem State.logLine_pos (e : LineEvent) : (s.logLine e).pos = s.pos := rfl
@[simp] theorem State.logLine_io (e : LineEvent) : (s.logLine e).io = { s.io with line := e :: s.io.line } := rfl

@[simp] theorem State.logWire_pins (es : List WireEvent) : (s.logWire es).pins = s.pins := rfl
@[simp] theorem State.logWire_status (es : List WireEvent) : (s.logWire es).status = s.status := rfl
@[simp] theorem State.logWire_rdata (es : List WireEvent) : (s.logWire es).rdata = s.rdata := rfl
@[simp] theorem State.logWire_devs (es : List WireEvent) : (s.logWire es).devs = s.devs := rfl
@[simp] theorem State.logWire_path (es : List WireEvent) : (s.logWire es).path = s.path := rfl
@[simp] theorem State.logWire_pos (es : List WireEvent) : (s.logWire es).pos = s.pos := rfl
@[simp] theorem State.logWire_io (es : List WireEvent) : (s.logWire es).io = { s.io with wire := es ++ s.io.wire } := rfl

@[simp] theorem State.portRead_pins (i : RegIdx) (b : Bool) : (s.portRead i b).pins = s.pins := rfl
@[simp] theorem State.portRead_status (i : RegIdx) (b : Bool) : (s.portRead i b).status = s.status := rfl
@[simp] theorem State.portRead_rdata (i : RegIdx) (b : Bool) : (s.portRead i b).rdata = s.rdata := rfl
@[simp] theorem State.portRead_devs (i : RegIdx) (b : Bool) : (s.portRead i b).devs = s.devs := rfl
@[simp] theorem State.portRead_path (i : RegIdx) (b : Bool) : (s.portRead i b).path = s.path := rfl
@[simp] theorem State.portRead_pos (i : RegIdx) (b : Bool) : (s.portRead i b).pos = s.pos := rfl
@[simp] theorem State.portRead_io (i : RegIdx) (b : Bool) : (s.portRead i b).io = { s.io with reads := (i, s.regRead i b) :: s.io.reads } := rfl

@[simp] theorem State.hardReset_pins : (s.hardReset).pins = State.reset.pins := rfl
@[simp] theorem State.hardReset_status : (s.hardReset).status = State.reset.status := rfl
@[simp] theorem State.hardReset_rdata : (s.hardReset).rdata = State.reset.rdata := rfl
@[simp] theorem State.hardReset_devs : (s.hardReset).devs = State.reset.devs := rfl
@[simp] theorem State.hardReset_path : (s.hardReset).path = State.reset.path := rfl
@[simp] theorem State.hardReset_pos : (s.hardReset).pos = State.reset.pos := rfl
@[simp] theorem State.hardReset_io : (s.hardReset).io = { s.io with line := .reset :: s.io.line } := rfl

@[simp] theorem State.accept_pins (w : Word) : (s.accept w).pins = s.pins := rfl
@[simp] theorem State.accept_status (w : Word) : (s.accept w).status = { busy := true, done := false, err := .ok, errDev := 0, drop := false } := rfl
@[simp] theorem State.accept_rdata (w : Word) : (s.accept w).rdata = s.rdata := rfl
@[simp] theorem State.accept_devs (w : Word) : (s.accept w).devs = s.devs := rfl
@[simp] theorem State.accept_path (w : Word) : (s.accept w).path = { s.path with cmdR := w } := rfl
@[simp] theorem State.accept_pos (w : Word) : (s.accept w).pos = { s.pos with mpc := .decode, upc := 0 } := rfl
@[simp] theorem State.accept_io (w : Word) : (s.accept w).io = s.io := rfl

@[simp] theorem State.endWith_pins (e : ErrCode) (d : Idx) : (s.endWith e d).pins = s.pins := rfl
@[simp] theorem State.endWith_status (e : ErrCode) (d : Idx) : (s.endWith e d).status = { s.status with busy := false, done := true, err := e, errDev := d } := rfl
@[simp] theorem State.endWith_rdata (e : ErrCode) (d : Idx) : (s.endWith e d).rdata = s.rdata := rfl
@[simp] theorem State.endWith_devs (e : ErrCode) (d : Idx) : (s.endWith e d).devs = s.devs := rfl
@[simp] theorem State.endWith_path (e : ErrCode) (d : Idx) : (s.endWith e d).path = s.path := rfl
@[simp] theorem State.endWith_pos (e : ErrCode) (d : Idx) : (s.endWith e d).pos = { s.pos with mpc := .idle } := rfl
@[simp] theorem State.endWith_io (e : ErrCode) (d : Idx) : (s.endWith e d).io = s.io := rfl

@[simp] theorem State.assignSda_pins (v : Bool) : (s.assignSda v).pins = { s.pins with sda := v } := rfl
@[simp] theorem State.assignSda_status (v : Bool) : (s.assignSda v).status = s.status := rfl
@[simp] theorem State.assignSda_rdata (v : Bool) : (s.assignSda v).rdata = s.rdata := rfl
@[simp] theorem State.assignSda_devs (v : Bool) : (s.assignSda v).devs = s.devs := rfl
@[simp] theorem State.assignSda_path (v : Bool) : (s.assignSda v).path = s.path := rfl
@[simp] theorem State.assignSda_pos (v : Bool) : (s.assignSda v).pos = s.pos := rfl
@[simp] theorem State.assignSda_io (v : Bool) : (s.assignSda v).io = { s.io with line := .sda v :: s.io.line, wire := dataCondition s.pins v ++ s.io.wire } := rfl

@[simp] theorem State.assignLdac_pins (d : Idx) (v : Bool) : (s.assignLdac d v).pins = { s.pins with ldac := vset s.pins.ldac d v } := rfl
@[simp] theorem State.assignLdac_status (d : Idx) (v : Bool) : (s.assignLdac d v).status = s.status := rfl
@[simp] theorem State.assignLdac_rdata (d : Idx) (v : Bool) : (s.assignLdac d v).rdata = s.rdata := rfl
@[simp] theorem State.assignLdac_devs (d : Idx) (v : Bool) : (s.assignLdac d v).devs = s.devs := rfl
@[simp] theorem State.assignLdac_path (d : Idx) (v : Bool) : (s.assignLdac d v).path = s.path := rfl
@[simp] theorem State.assignLdac_pos (d : Idx) (v : Bool) : (s.assignLdac d v).pos = s.pos := rfl
@[simp] theorem State.assignLdac_io (d : Idx) (v : Bool) : (s.assignLdac d v).io = { s.io with line := .ldac d v :: s.io.line, wire := latchEdge s.pins d v ++ s.io.wire } := rfl

@[simp] theorem State.assignSclLdac_pins (d : Idx) : (s.assignSclLdac d).pins = { s.pins with scl := false, ldac := vset s.pins.ldac d false } := rfl
@[simp] theorem State.assignSclLdac_status (d : Idx) : (s.assignSclLdac d).status = s.status := rfl
@[simp] theorem State.assignSclLdac_rdata (d : Idx) : (s.assignSclLdac d).rdata = s.rdata := rfl
@[simp] theorem State.assignSclLdac_devs (d : Idx) : (s.assignSclLdac d).devs = s.devs := rfl
@[simp] theorem State.assignSclLdac_path (d : Idx) : (s.assignSclLdac d).path = s.path := rfl
@[simp] theorem State.assignSclLdac_pos (d : Idx) : (s.assignSclLdac d).pos = s.pos := rfl
@[simp] theorem State.assignSclLdac_io (d : Idx) : (s.assignSclLdac d).io = { s.io with line := .sclLdac d :: s.io.line, wire := latchEdge s.pins d false ++ s.io.wire } := rfl

/-! Updates that look at the state: the groups they leave alone. -/

@[simp] theorem State.envUsed_pins : s.envUsed.pins = s.pins := by unfold State.envUsed; split <;> rfl
@[simp] theorem State.envUsed_status : s.envUsed.status = s.status := by unfold State.envUsed; split <;> rfl
@[simp] theorem State.envUsed_rdata : s.envUsed.rdata = s.rdata := by unfold State.envUsed; split <;> rfl
@[simp] theorem State.envUsed_devs : s.envUsed.devs = s.devs := by unfold State.envUsed; split <;> rfl
@[simp] theorem State.envUsed_path : s.envUsed.path = s.path := by unfold State.envUsed; split <;> rfl
@[simp] theorem State.envUsed_pos : s.envUsed.pos = s.pos := by unfold State.envUsed; split <;> rfl
@[simp] theorem State.envUsed_io_port : s.envUsed.io.port = s.io.port := by unfold State.envUsed; split <;> rfl
@[simp] theorem State.envUsed_io_reads : s.envUsed.io.reads = s.io.reads := by unfold State.envUsed; split <;> rfl
@[simp] theorem State.envUsed_io_line : s.envUsed.io.line = s.io.line := by unfold State.envUsed; split <;> rfl
@[simp] theorem State.envUsed_io_wire : s.envUsed.io.wire = s.io.wire := by unfold State.envUsed; split <;> rfl

@[simp] theorem State.takeSample_pins : s.takeSample.pins = s.pins := by simp [State.takeSample]
@[simp] theorem State.takeSample_status : s.takeSample.status = s.status := by simp [State.takeSample]
@[simp] theorem State.takeSample_rdata : s.takeSample.rdata = s.rdata := by simp [State.takeSample]
@[simp] theorem State.takeSample_devs : s.takeSample.devs = s.devs := by simp [State.takeSample]
@[simp] theorem State.takeSample_path : s.takeSample.path = s.path := by simp [State.takeSample]
@[simp] theorem State.takeSample_pos : s.takeSample.pos = s.pos := by simp [State.takeSample]
@[simp] theorem State.takeSample_io_port : s.takeSample.io.port = s.io.port := by simp [State.takeSample]
@[simp] theorem State.takeSample_io_reads : s.takeSample.io.reads = s.io.reads := by simp [State.takeSample]
@[simp] theorem State.takeSample_io_wire : s.takeSample.io.wire = s.io.wire := by simp [State.takeSample]

@[simp] theorem State.busyWrite_pins (i : RegIdx) : (s.busyWrite i).pins = s.pins := by unfold State.busyWrite; split <;> rfl
@[simp] theorem State.busyWrite_rdata (i : RegIdx) : (s.busyWrite i).rdata = s.rdata := by unfold State.busyWrite; split <;> rfl
@[simp] theorem State.busyWrite_devs (i : RegIdx) : (s.busyWrite i).devs = s.devs := by unfold State.busyWrite; split <;> rfl
@[simp] theorem State.busyWrite_path (i : RegIdx) : (s.busyWrite i).path = s.path := by unfold State.busyWrite; split <;> rfl
@[simp] theorem State.busyWrite_pos (i : RegIdx) : (s.busyWrite i).pos = s.pos := by unfold State.busyWrite; split <;> rfl
@[simp] theorem State.busyWrite_io (i : RegIdx) : (s.busyWrite i).io = s.io := by unfold State.busyWrite; split <;> rfl
@[simp] theorem State.busyWrite_status_busy (i : RegIdx) : (s.busyWrite i).status.busy = s.status.busy := by unfold State.busyWrite; split <;> rfl
@[simp] theorem State.busyWrite_status_done (i : RegIdx) : (s.busyWrite i).status.done = s.status.done := by unfold State.busyWrite; split <;> rfl
@[simp] theorem State.busyWrite_status_err (i : RegIdx) : (s.busyWrite i).status.err = s.status.err := by unfold State.busyWrite; split <;> rfl
@[simp] theorem State.busyWrite_status_errDev (i : RegIdx) : (s.busyWrite i).status.errDev = s.status.errDev := by unfold State.busyWrite; split <;> rfl

/-! Vectors of four. -/

variable {α : Type}

@[simp] theorem vget_vset_self (v : Vector α 4) (i : Idx) (x : α) : vget (vset v i x) i = x := by
  simp [vget, vset]

theorem vget_vset_ne (v : Vector α 4) (x : α) {i j : Idx} (h : i ≠ j) : vget (vset v i x) j = vget v j := by
  have : i.toNat ≠ j.toNat := fun e => h (BitVec.eq_of_toNat_eq e)
  simp [vget, vset, this]

theorem vget_vset (v : Vector α 4) (x : α) (i j : Idx) :
    vget (vset v i x) j = if i = j then x else vget v j := by
  split
  · next h => subst h; simp
  · next h => exact vget_vset_ne v x h

@[simp] theorem vget_replicate (x : α) (i : Idx) : vget (Vector.replicate 4 x) i = x := by simp [vget]

@[simp] theorem vset_vset_self (v : Vector α 4) (i : Idx) (x y : α) : vset (vset v i x) i y = vset v i y := by
  simp [vset]

/-- Two vectors of four with the same elements are equal. -/
theorem vec_ext {v w : Vector α 4} (h : ∀ i : Idx, vget v i = vget w i) : v = w := by
  ext i hi
  have := h (BitVec.ofNat 2 i)
  simpa [vget, Nat.mod_eq_of_lt hi] using this

/-- Two states with the same groups are equal. -/
theorem State.ext_groups {s t : State} (h1 : s.pins = t.pins) (h2 : s.status = t.status)
    (h3 : s.rdata = t.rdata) (h4 : s.devs = t.devs) (h5 : s.path = t.path) (h6 : s.pos = t.pos)
    (h7 : s.io = t.io) : s = t := by
  cases s; cases t; simp_all

end Sys2Proof.Machine
end

