-- ==== Sys2Proof/Laws/Run.lean ====
section
/-!
SUPPORT. How a running command goes on: the rules of sequencing, what the host's turn can do, and what
each operation does when the host leaves the port alone (`State.quiet`).
-/

namespace Sys2Proof.Machine

/-! Sequencing. -/

@[simp] theorem run_ok_bind (s : State) (f : State → Except State State) : (Except.ok s >>= f) = f s := rfl
@[simp] theorem run_error_bind (s : State) (f : State → Except State State) :
    (Except.error s >>= f) = .error s := rfl
@[simp] theorem run_ok_bind' (s : State) (f : State → Except State State) : (Except.ok s).bind f = f s := rfl
@[simp] theorem run_error_bind' (s : State) (f : State → Except State State) :
    (Except.error s).bind f = .error s := rfl
@[simp] theorem run_pure (s : State) : (pure s : Except State State) = .ok s := rfl
@[simp] theorem ended_ok (s : State) : ended (.ok s) = s := rfl
@[simp] theorem ended_error (s : State) : ended (.error s) = s := rfl

@[simp] theorem runOps_nil (s : State) : runOps [] s = .ok s := rfl
@[simp] theorem runOps_cons (m : MicroOp) (ms : List MicroOp) (s : State) :
    runOps (m :: ms) s = runOp m s >>= runOps ms := rfl

theorem run_bind_assoc (r : Except State State) (f g : State → Except State State) :
    (r >>= f) >>= g = r >>= fun s => f s >>= g := by cases r <;> rfl

theorem runOps_append (ms ns : List MicroOp) (s : State) :
    runOps (ms ++ ns) s = runOps ms s >>= runOps ns := by
  induction ms generalizing s with
  | nil => rfl
  | cons m ms ih =>
    simp only [List.cons_append, runOps_cons, run_bind_assoc]
    cases runOp m s with
    | error t => rfl
    | ok t => simp [ih]

/-! Postconditions. `Post P E r`: if the command still runs in a state, `P` holds of it; if it has ended,
`E` holds of the state it ended in. -/

def Post (P E : State → Prop) : Except State State → Prop
  | .ok s => P s
  | .error s => E s

@[simp] theorem post_ok {P E : State → Prop} {s : State} : Post P E (.ok s) = P s := rfl
@[simp] theorem post_error {P E : State → Prop} {s : State} : Post P E (.error s) = E s := rfl

theorem Post.bind {P Q E : State → Prop} {r : Except State State} {f : State → Except State State}
    (h : Post P E r) (hf : ∀ s, P s → Post Q E (f s)) : Post Q E (r >>= f) := by
  cases r with
  | ok s => exact hf s h
  | error s => exact h

theorem Post.mono {P Q E F : State → Prop} {r : Except State State} (h : Post P E r)
    (hP : ∀ s, P s → Q s) (hE : ∀ s, E s → F s) : Post Q F r := by
  cases r with
  | ok s => exact hP s h
  | error s => exact hE s h

/-- The end of a command, from what its step table establishes. -/
theorem Post.finish {P E F : State → Prop} {r : Except State State} (h : Post P E r)
    (hP : ∀ s, P s → Post F F (complete s)) (hE : ∀ s, E s → F s) :
    ∃ t, Machine.finish r = .next t ∧ F t := by
  refine ⟨_, rfl, ?_⟩
  cases r with
  | error s => exact hE s h
  | ok s =>
    have := hP s h
    simp only [run_ok_bind']
    cases hc : complete s with
    | ok t => simpa [hc] using this
    | error t => simpa [hc] using this

/-! The host's turn. -/

/-- What the host's turn can do to a running command: set DROP, record reads, use up the port's events,
or end the command by a reset. -/
theorem serveList_post (es : List PortEvent) (s : State) :
    Post
      (fun t => t.pins = s.pins ∧ t.rdata = s.rdata ∧ t.devs = s.devs ∧ t.path = s.path ∧ t.pos = s.pos ∧
        (t.status = s.status ∨ t.status = { s.status with drop := true }) ∧
        ∃ port reads, t.io = { s.io with port := port, reads := reads } ∧ port <:+ es)
      (fun t => ∃ port reads, t = ((s.withIo { s.io with port := port, reads := reads }).hardReset) ∧
        port <:+ es)
      (serveList es s) := by
  induction es generalizing s with
  | nil => simp [serveList]
  | cons e es ih =>
    have key : ∀ s' : State, s'.pins = s.pins → s'.rdata = s.rdata → s'.devs = s.devs → s'.path = s.path →
        s'.pos = s.pos → (s'.status = s.status ∨ s'.status = { s.status with drop := true }) →
        (∃ reads, s'.io = { s.io with reads := reads }) →
        Post
          (fun t => t.pins = s.pins ∧ t.rdata = s.rdata ∧ t.devs = s.devs ∧ t.path = s.path ∧ t.pos = s.pos ∧
            (t.status = s.status ∨ t.status = { s.status with drop := true }) ∧
            ∃ port reads, t.io = { s.io with port := port, reads := reads } ∧ port <:+ e :: es)
          (fun t => ∃ port reads, t = ((s.withIo { s.io with port := port, reads := reads }).hardReset) ∧
            port <:+ e :: es)
          (serveList es s') := by
      intro s' h1 h2 h3 h4 h5 h6 ⟨rd, h7⟩
      refine (ih s').mono ?_ ?_
      · rintro t ⟨g1, g2, g3, g4, g5, g6, p, r, g7, g8⟩
        refine ⟨g1.trans h1, g2.trans h2, g3.trans h3, g4.trans h4, g5.trans h5, ?_, p, r, ?_, ?_⟩
        · rcases g6 with g | g <;> rcases h6 with h | h <;> rw [g, h] <;> simp
        · rw [g7, h7]
        · exact g8.trans (List.suffix_cons e es)
      · rintro t ⟨p, r, rfl, g8⟩
        refine ⟨p, r, ?_, g8.trans (List.suffix_cons e es)⟩
        simp only [State.hardReset, State.withIo_io, h7]
    cases e with
    | tick => exact ⟨rfl, rfl, rfl, rfl, rfl, .inl rfl, es, s.io.reads, rfl, List.suffix_cons _ _⟩
    | wait => exact ⟨rfl, rfl, rfl, rfl, rfl, .inl rfl, .wait :: es, s.io.reads, rfl, List.suffix_refl _⟩
    | rst => exact ⟨es, s.io.reads, rfl, List.suffix_cons _ _⟩
    | write i w =>
      refine key _ (by simp) (by simp) (by simp) (by simp) (by simp) ?_ ⟨s.io.reads, by simp⟩
      unfold State.busyWrite; split <;> simp
    | read i env => exact key _ rfl rfl rfl rfl rfl (.inl rfl) ⟨_, rfl⟩

/-! When the host leaves the port alone. -/

theorem quiet_of_port {s t : State} (h : t.io.port = s.io.port) : t.quiet = s.quiet := by
  unfold State.quiet; rw [h]

/-- The host's turn does nothing when the host leaves the port alone. -/
theorem serve_quiet {s : State} (h : s.quiet = true) : serve s = .ok s := by
  unfold serve
  have hs : s.io = { s.io with port := s.io.port } := rfl
  revert h
  unfold State.quiet
  cases hp : s.io.port with
  | nil => intro _; simp only [serveList, State.setPort]; rw [← hp]; rfl
  | cons e es =>
    cases e <;> simp only [false_implies, Bool.false_eq_true]
    intro _; simp only [serveList, State.setPort]; rw [← hp]; rfl

/-- One micro-op with the port left alone. -/
def State.afterOp (s : State) : MicroOp → State
  | .wait d => ((s.setDly 0).perform (.wait d)).nextUop
  | m => (s.perform m).nextUop

theorem perform_port (m : MicroOp) (s : State) : (s.perform m).io.port = s.io.port := by
  cases m <;> simp [State.perform, State.assignAllLdac]

@[simp] theorem afterOp_quiet (m : MicroOp) (s : State) : (s.afterOp m).quiet = s.quiet := by
  apply quiet_of_port
  cases m <;> simp [State.afterOp, perform_port]

theorem runOp_quiet {s : State} (h : s.quiet = true) (m : MicroOp) : runOp m s = .ok (s.afterOp m) := by
  have hq : ∀ n, serve (s.setDly n) = .ok (s.setDly n) := fun n => serve_quiet ((quiet_of_port rfl).trans h)
  cases m with
  | wait d => simp only [runOp, serve_quiet h, run_ok_bind, hq]; rfl
  | _ => simp [runOp, serve_quiet h, State.afterOp]

theorem foldl_afterOp_quiet (ms : List MicroOp) (s : State) : (ms.foldl State.afterOp s).quiet = s.quiet := by
  induction ms generalizing s with
  | nil => rfl
  | cons m ms ih => simp [ih]

theorem runOps_quiet {s : State} (h : s.quiet = true) (ms : List MicroOp) :
    runOps ms s = .ok (ms.foldl State.afterOp s) := by
  induction ms generalizing s with
  | nil => rfl
  | cons m ms ih => simp [runOp_quiet h, ih ((afterOp_quiet m s).trans h)]

/-- A byte loop with the port left alone. -/
def State.afterBits (body : Nat → List MicroOp) (head : Nat) : Nat → State → State
  | 0, s => (body 0).foldl State.afterOp s
  | n + 1, s => ((((body (n + 1)).foldl State.afterOp s).atBit (BitVec.ofNat 3 n) head)).afterBits body head n

theorem bitsFrom_quiet {s : State} (h : s.quiet = true) (body : Nat → List MicroOp) (head n : Nat) :
    bitsFrom body head n s = .ok (s.afterBits body head n) := by
  induction n generalizing s with
  | zero => simp [bitsFrom, runOps_quiet h, State.afterBits]
  | succ n ih =>
    have hq : (((body (n + 1)).foldl State.afterOp s).atBit (BitVec.ofNat 3 n) head).quiet = true :=
      (quiet_of_port rfl).trans ((foldl_afterOp_quiet _ s).trans h)
    simp [bitsFrom, runOps_quiet h, ih hq, State.afterBits]

theorem complete_quiet {s : State} (h : s.quiet = true) : complete s = .ok ((s.goto .idle).endWith .ok 0) := by
  simp [complete, State.succeed, serve_quiet h]

theorem raise_quiet {s : State} (h : s.quiet = true) (e : ErrCode) (d : Idx) :
    raise e d s = .error (s.endWith e d) := by
  simp [raise, serve_quiet h]

/-! Whatever the host does. -/

/-- `t` is `s` after accesses of the host that are no reset: DROP, the port and the reads may differ. -/
def Served (s t : State) : Prop :=
  ∃ drop port reads, t = (s.withStatus { s.status with drop := drop }).withIo
    { s.io with port := port, reads := reads }

theorem Served.refl (s : State) : Served s s := ⟨s.status.drop, s.io.port, s.io.reads, rfl⟩

theorem Served.trans {s t u : State} (h : Served s t) (g : Served t u) : Served s u := by
  obtain ⟨d, p, r, rfl⟩ := h
  obtain ⟨d', p', r', rfl⟩ := g
  exact ⟨d', p', r', rfl⟩

/-- The host's turn: an access changes nothing else, and a reset ends the command. -/
theorem serve_post (s : State) : Post (Served s) (fun t => ∃ u, Served s u ∧ t = u.hardReset) (serve s) := by
  refine (serveList_post s.io.port s).mono ?_ ?_
  · rintro t ⟨h1, h2, h3, h4, h5, h6, p, r, h7, -⟩
    rcases h6 with h6 | h6
    · exact ⟨s.status.drop, p, r, State.ext_groups h1 h6 h2 h3 h4 h5 h7⟩
    · exact ⟨true, p, r, State.ext_groups h1 h6 h2 h3 h4 h5 h7⟩
  · rintro t ⟨p, r, rfl, -⟩
    exact ⟨_, ⟨s.status.drop, p, r, rfl⟩, rfl⟩

/-- A micro-op does the same after the host's accesses as before them. -/
theorem Served.afterOp {s t : State} (h : Served s t) (m : MicroOp) : Served (s.afterOp m) (t.afterOp m) := by
  obtain ⟨d, p, r, rfl⟩ := h
  refine ⟨d, p, r, ?_⟩
  cases m with
  | sampleAck | sampleBit =>
    simp only [State.afterOp, State.perform, State.takeSample, State.envUsed, State.sampled, State.envNext]
    cases s.io.env <;> simp <;> rfl
  | _ => rfl

/-- One micro-op, whatever the host does: it is performed, or a reset ends the command. -/
theorem runOp_post (m : MicroOp) (s : State) :
    Post (Served (s.afterOp m)) (fun t => ∃ u, Served s u ∧ t = u.hardReset) (runOp m s) := by
  refine (serve_post s).bind ?_
  intro u hu
  have key := hu.afterOp m
  cases m with
  | wait d =>
    have hd : ∀ v, Served (u.setDly d.counts) v → Served u (v.setDly u.path.dly) := by
      rintro v ⟨d, p, r, rfl⟩
      exact ⟨d, p, r, rfl⟩
    refine ((serve_post (u.setDly d.counts)).mono (Q := fun v => Served u (v.setDly u.path.dly))
      (F := fun t => ∃ u, Served s u ∧ t = u.hardReset) hd ?_).bind ?_
    · rintro t ⟨v, hv, rfl⟩
      exact ⟨v.setDly u.path.dly, hu.trans (hd v hv), rfl⟩
    · intro v hv
      exact (hu.trans hv).afterOp (.wait d)
  | _ => exact key

/-- A list of micro-ops, whatever the host does: it is performed, or a reset ends the command after some of
them. -/
theorem runOps_post (ms : List MicroOp) (s : State) :
    Post (Served (ms.foldl State.afterOp s))
      (fun t => ∃ done u, done <+: ms ∧ Served (done.foldl State.afterOp s) u ∧ t = u.hardReset) (runOps ms s) := by
  have fold : ∀ (ms : List MicroOp) {s t : State}, Served s t →
      Served (ms.foldl State.afterOp s) (ms.foldl State.afterOp t) := by
    intro ms
    induction ms with
    | nil => exact fun h => h
    | cons m ms ih => exact fun h => ih (h.afterOp m)
  induction ms generalizing s with
  | nil => exact .refl s
  | cons m ms ih =>
    refine ((runOp_post m s).mono (fun _ h => h) ?_).bind ?_
    · rintro t ⟨u, hu, rfl⟩
      exact ⟨[], u, List.nil_prefix, hu, rfl⟩
    · intro v hv
      refine (ih v).mono (fun _ h => (fold ms hv).trans h) ?_
      rintro t ⟨done, u, hp, hu, rfl⟩
      exact ⟨m :: done, u, (List.prefix_cons_inj m).2 hp, (fold done hv).trans hu, rfl⟩
end Sys2Proof.Machine
end

