-- ==== Sys2Proof/Laws/SoftBus.lean ====
section
/-!
SUPPORT. What each SoftBus primitive does when the host leaves the port alone, as one explicit state: the
spec lemma of the primitive, which a later proof cites instead of unfolding its micro-op list.
-/

namespace Sys2Proof.Machine

/-! The model's inputs and records. -/

theorem Io.after_answer (io : Io) (n m : Nat) (l : List LineEvent) (w : List WireEvent) :
    (io.after n l w).answer m = io.answer (n + m) := by
  unfold Io.answer Io.after
  simp only [List.getElem?_drop, List.length_drop]
  cases h : io.env[n + m]? with
  | some b => rfl
  | none =>
    have hl : io.env.length ≤ n + m := by simpa using h
    have e : io.draws + (n - io.env.length) + (m - (io.env.length - n)) =
        io.draws + (n + m - io.env.length) := by omega
    simp only [e]

theorem Io.after_after (io : Io) (n m : Nat) (l l' : List LineEvent) (w w' : List WireEvent) :
    (io.after n l w).after m l' w' = io.after (n + m) (l ++ l') (w ++ w') := by
  simp only [Io.after, List.drop_drop, List.length_drop, List.reverse_append, List.append_assoc, Io.mk.injEq,
    true_and, and_true]
  omega

@[simp] theorem Io.after_port (io : Io) (n : Nat) (l : List LineEvent) (w : List WireEvent) :
    (io.after n l w).port = io.port := rfl

theorem Io.after_answerByte (io : Io) (n m : Nat) (l : List LineEvent) (w : List WireEvent) :
    (io.after n l w).answerByte m = io.answerByte (n + m) := by
  simp [Io.answerByte, Io.after_answer, Nat.add_assoc]

theorem Io.logs_eq_after (io : Io) (l : List LineEvent) (w : List WireEvent) :
    { io with line := l ++ io.line, wire := w ++ io.wire } = io.after 0 l.reverse w.reverse := by
  simp [Io.after]

theorem envNext_eq (s : State) : s.envNext = s.io.answer 0 := by
  unfold State.envNext Io.answer
  cases s.io.env <;> rfl

theorem envUsed_io (s : State) : s.envUsed.io = s.io.after 1 [] [] := by
  unfold State.envUsed Io.after
  cases h : s.io.env <;> simp [h]

@[simp] theorem dataCondition_reverse (p : Pins) (v : Bool) :
    (dataCondition p v).reverse = dataCondition p v := by
  unfold dataCondition; split <;> simp

@[simp] theorem latchEdge_reverse (p : Pins) (d : Idx) (v : Bool) :
    (latchEdge p d v).reverse = latchEdge p d v := by
  unfold latchEdge; split <;> simp

@[simp] theorem dataCondition_held (p : Pins) (v : Bool) : dataCondition p.held v = [] := rfl
@[simp] theorem Pins.held_held (p : Pins) : p.held.held = p.held := rfl
@[simp] theorem Pins.held_idle (p : Pins) : p.held.idle = p.idle := rfl
@[simp] theorem Pins.held_ldac (p : Pins) : p.held.ldac = p.ldac := rfl
@[simp] theorem Pins.idle_ldac (p : Pins) : p.idle.ldac = p.ldac := rfl

/-! Cells. -/

/-- After a cell that leaves the bus held: its waits done, `n` micro-ops on. -/
def State.afterCell (s : State) (n k : Nat) (line : List LineEvent) (wire : List WireEvent) : State where
  pins := s.pins.held
  status := s.status
  rdata := s.rdata
  devs := s.devs
  path := { s.path with dly := 0 }
  pos := { s.pos with upc := s.pos.upc + n }
  io := s.io.after k line wire

@[simp] theorem afterCell_quiet (s : State) (n k : Nat) (l : List LineEvent) (w : List WireEvent) :
    (s.afterCell n k l w).quiet = s.quiet := rfl

theorem writeCell_fold (s : State) :
    writeCell.foldl State.afterOp s =
      s.afterCell 7 0 (lineOfCell (s.path.shreg.getLsbD s.pos.bit.toNat))
        (dataCondition s.pins (s.path.shreg.getLsbD s.pos.bit.toNat)) := by
  apply State.ext_groups <;>
    simp [writeCell, State.afterOp, State.perform, State.afterCell, lineOfCell, Pins.held, dataCondition, Io.after]
  split <;> simp

theorem latchCell_fold (d : Idx) (s : State) :
    (latchCell d).foldl State.afterOp s =
      (s.afterCell 7 0 (lineOfLatchCell (s.path.shreg.getLsbD s.pos.bit.toNat) d)
        (dataCondition s.pins (s.path.shreg.getLsbD s.pos.bit.toNat) ++ latchEdge s.pins d false)).setLdac d false := by
  apply State.ext_groups <;>
    simp [latchCell, State.afterOp, State.perform, State.afterCell, lineOfLatchCell, Pins.held, dataCondition,
      Io.after, latchEdge]
  split <;> split <;> simp

theorem checkAckOps_fold (s : State) :
    checkAckOps.foldl State.afterOp s =
      (s.afterCell 8 1 (lineOfCheckAck (s.io.answer 0)) (dataCondition s.pins true)).setSmp (s.io.answer 0) := by
  apply State.ext_groups <;>
    simp [checkAckOps, State.afterOp, State.perform, State.sampled, State.sdaIn, envNext_eq, State.takeSample,
      envUsed_io, State.afterCell, Io.answer, Io.after, lineOfCheckAck, Pins.held, dataCondition]
  split <;> simp

theorem readCell_fold (s : State) :
    readCell.foldl State.afterOp s =
      (((s.afterCell 6 1 (lineOfReadCell (s.pins.sda && s.io.answer 0)) []).setSda s.pins.sda).setShreg
        (setBit s.path.shreg s.pos.bit (s.pins.sda && s.io.answer 0))) := by
  apply State.ext_groups <;>
    simp [readCell, State.afterOp, State.perform, State.sampled, State.sdaIn, envNext_eq, State.takeSample,
      envUsed_io, State.afterCell, Io.answer, Io.after, lineOfReadCell, Pins.held]

theorem masterAckCell_fold (ack : Bool) (s : State) :
    (masterAckCell ack).foldl State.afterOp s =
      s.afterCell 7 0 (lineOfCell (!ack)) (dataCondition s.pins (!ack)) := by
  apply State.ext_groups <;>
    simp [masterAckCell, State.afterOp, State.perform, State.afterCell, lineOfCell, Pins.held, dataCondition, Io.after]
  split <;> simp

theorem condStartOps_fold (s : State) :
    condStartOps.foldl State.afterOp s =
      s.afterCell 8 0 lineOfCondStart (dataCondition s.pins true ++ [.start]) := by
  apply State.ext_groups <;>
    simp [condStartOps, State.afterOp, State.perform, State.afterCell, lineOfCondStart, Pins.held, dataCondition, Io.after]
  split <;> simp

/-! The primitives. -/

/-- After `BusStop`: the bus idle. -/
def State.afterStop (s : State) : State where
  pins := s.pins.idle
  status := s.status
  rdata := s.rdata
  devs := s.devs
  path := { s.path with dly := 0 }
  pos := { s.pos with upc := s.pos.upc + 4 }
  io := s.io.after 0 lineOfStop (if s.pins.sda then [] else [.stop])

@[simp] theorem afterStop_quiet (s : State) : (s.afterStop).quiet = s.quiet := rfl

theorem busStop_quiet {s : State} (h : s.quiet = true) : busStop s = .ok s.afterStop := by
  rw [busStop, runOps_quiet h]
  congr 1
  apply State.ext_groups <;>
    simp [stopOps, State.afterOp, State.perform, State.afterStop, lineOfStop, Pins.idle, dataCondition, Io.after]
  cases s.pins.sda <;> simp

/-- After `BusWrite(b)`: the bus held, the byte on the wire. -/
def State.afterWrite (b : Byte) (s : State) : State where
  pins := s.pins.held
  status := s.status
  rdata := s.rdata
  devs := s.devs
  path := { s.path with shreg := b, dly := 0 }
  pos := { s.pos with bit := 0, upc := s.pos.upc + 7 }
  io := s.io.after 0 (lineOfWrite b) (dataCondition s.pins (b.getLsbD 7) ++ [.wrote b])

@[simp] theorem afterWrite_quiet (b : Byte) (s : State) : (s.afterWrite b).quiet = s.quiet := rfl

theorem busWrite_quiet {s : State} (h : s.quiet = true) (b : Byte) : busWrite b s = .ok (s.afterWrite b) := by
  have hq : ((s.setShreg b).atBit 7 (s.setShreg b).pos.upc).quiet = true := (quiet_of_port rfl).trans h
  simp only [busWrite, forBits, bitsFrom_quiet hq, run_ok_bind, run_pure]
  simp only [State.afterBits, writeCell_fold, Except.ok.injEq]
  apply State.ext_groups <;>
    simp [State.afterCell, State.afterWrite, lineOfWrite, lineOfHighBits, Io.after_after]
  simp [Io.after]

/-- After `BusWriteLatch(b, d)`: as after `BusWrite(b)`, and latch `d` low. -/
def State.afterWriteLatch (b : Byte) (d : Idx) (s : State) : State where
  pins := { s.pins.held with ldac := vset s.pins.ldac d false }
  status := s.status
  rdata := s.rdata
  devs := s.devs
  path := { s.path with shreg := b, dly := 0 }
  pos := { s.pos with bit := 0, upc := s.pos.upc + 7 }
  io := s.io.after 0 (lineOfWriteLatch b d)
    (dataCondition s.pins (b.getLsbD 7) ++ latchEdge s.pins d false ++ [.wrote b])

@[simp] theorem afterWriteLatch_quiet (b : Byte) (d : Idx) (s : State) : (s.afterWriteLatch b d).quiet = s.quiet := rfl

theorem busWriteLatch_quiet {s : State} (h : s.quiet = true) (b : Byte) (d : Idx) :
    busWriteLatch b d s = .ok (s.afterWriteLatch b d) := by
  have hq : ((s.setShreg b).atBit 7 (s.setShreg b).pos.upc).quiet = true := (quiet_of_port rfl).trans h
  simp only [busWriteLatch, forBits, bitsFrom_quiet hq, run_ok_bind, run_pure]
  simp only [State.afterBits, writeCell_fold, latchCell_fold, Except.ok.injEq, if_true,
    Nat.add_one_ne_zero, if_false]
  apply State.ext_groups <;>
    simp [State.afterCell, State.afterWriteLatch, lineOfWriteLatch, lineOfHighBits, Io.after_after]
  simp [Io.after, latchEdge]

/-- After `BusCheckAck`: the bus held, the sample in `smp`. -/
def State.afterCheckAck (s : State) : State where
  pins := s.pins.held
  status := s.status
  rdata := s.rdata
  devs := s.devs
  path := { s.path with smp := s.io.answer 0, dly := 0 }
  pos := { s.pos with upc := s.pos.upc + 8 }
  io := s.io.after 1 (lineOfCheckAck (s.io.answer 0))
    (dataCondition s.pins true ++ [if s.io.answer 0 then .nack else .ack])

@[simp] theorem afterCheckAck_quiet (s : State) : (s.afterCheckAck).quiet = s.quiet := rfl

theorem busCheckAck_quiet {s : State} (h : s.quiet = true) (who : Idx) :
    busCheckAck who s =
      if s.io.answer 0 then .error (s.afterCheckAck.endWith .noAck who) else .ok s.afterCheckAck := by
  simp only [busCheckAck, runOps_quiet h, checkAckOps_fold, run_ok_bind, State.setSmp_path, State.afterCell]
  cases ha : s.io.answer 0 <;> simp only [Bool.false_eq_true, if_false, if_true]
  · simp only [run_pure, Except.ok.injEq]
    apply State.ext_groups <;> simp [State.afterCheckAck, ha, Io.after]
  · rw [raise_quiet ((quiet_of_port (by simp)).trans h)]
    simp only [Except.error.injEq]
    apply State.ext_groups <;> simp [State.afterCheckAck, ha, Io.after]

/-- After START, whatever the check sampled: the bus held. -/
def State.afterStart (a : Byte) (s : State) : State where
  pins := s.pins.held
  status := s.status
  rdata := s.rdata
  devs := s.devs
  path := { s.path with shreg := a, smp := s.io.answer 0, dly := 0 }
  pos := { s.pos with bit := 0, upc := s.pos.upc + 23 }
  io := s.io.after 1 (lineOfStart a (s.io.answer 0))
    (dataCondition s.pins true ++ [.start, .wrote a, if s.io.answer 0 then .nack else .ack])

@[simp] theorem afterStart_quiet (a : Byte) (s : State) : (s.afterStart a).quiet = s.quiet := rfl

theorem busStart_quiet {s : State} (h : s.quiet = true) (who : Idx) (addr : BusAddr) (rd : Bool) :
    busStart who addr rd s =
      if s.io.answer 0 then .error ((s.afterStart (addressByte addr rd)).endWith .noAck who)
      else .ok (s.afterStart (addressByte addr rd)) := by
  simp only [busStart, runOps_quiet h, condStartOps_fold, run_ok_bind]
  rw [busWrite_quiet (by simpa using h), run_ok_bind, busCheckAck_quiet (by simpa using h)]
  have e : (((s.afterCell 8 0 lineOfCondStart (dataCondition s.pins true ++ [.start])).afterWrite
      (addressByte addr rd)).afterCheckAck) = s.afterStart (addressByte addr rd) := by
    apply State.ext_groups <;>
      simp [State.afterCell, State.afterWrite, State.afterCheckAck, State.afterStart, Io.after_after,
        Io.after_answer, lineOfStart]
  rw [e]
  simp [State.afterWrite, State.afterCell, Io.after_answer]

theorem setBit_getLsbD (v : Byte) (i : BitVec 3) (b : Bool) (j : Nat) (hj : j < 8) :
    (setBit v i b).getLsbD j = if j = i.toNat then b else v.getLsbD j := by
  have hi : i.toNat < 8 := i.isLt
  unfold setBit
  cases b <;> simp [hj] <;> by_cases h : j = i.toNat <;> simp [h] <;> omega

/-- The j-th answer of a byte is its bit 7 - j. -/
theorem byteOf_bits (a : Nat → Bool) :
    (byteOf a).getLsbD 7 = a 0 ∧ (byteOf a).getLsbD 6 = a 1 ∧ (byteOf a).getLsbD 5 = a 2 ∧
    (byteOf a).getLsbD 4 = a 3 ∧ (byteOf a).getLsbD 3 = a 4 ∧ (byteOf a).getLsbD 2 = a 5 ∧
    (byteOf a).getLsbD 1 = a 6 ∧ (byteOf a).getLsbD 0 = a 7 := by
  unfold byteOf
  generalize a 0 = b0, a 1 = b1, a 2 = b2, a 3 = b3, a 4 = b4, a 5 = b5, a 6 = b6, a 7 = b7
  revert b0 b1 b2 b3 b4 b5 b6 b7
  decide

/-- Eight assignments of bits, one to each place, leave none of the old byte. -/
theorem setBit_all (v : Byte) (a : Nat → Bool) :
    setBit (setBit (setBit (setBit (setBit (setBit (setBit (setBit v 7 (a 0)) 6 (a 1)) 5 (a 2)) 4 (a 3)) 3 (a 4))
      2 (a 5)) 1 (a 6)) 0 (a 7) = byteOf a := by
  apply BitVec.eq_of_getLsbD_eq
  intro j hj
  simp only [setBit_getLsbD _ _ _ _ hj]
  obtain ⟨h7, h6, h5, h4, h3, h2, h1, h0⟩ := byteOf_bits a
  have : j = 0 ∨ j = 1 ∨ j = 2 ∨ j = 3 ∨ j = 4 ∨ j = 5 ∨ j = 6 ∨ j = 7 := by omega
  rcases this with rfl | rfl | rfl | rfl | rfl | rfl | rfl | rfl <;>
    simp only [h7, h6, h5, h4, h3, h2, h1, h0] <;> simp

/-- After `BusRead(ack)`: the bus held, the byte in `shreg` and in RDATA. -/
def State.afterRead (ack : Bool) (s : State) : State where
  pins := s.pins.held
  status := s.status
  rdata := s.io.answerByte 0
  devs := s.devs
  path := { s.path with shreg := s.io.answerByte 0, dly := 0 }
  pos := { s.pos with bit := 0, upc := s.pos.upc + 14 }
  io := s.io.after 8 (lineOfRead (s.io.answerByte 0) ack)
    (dataCondition s.pins true ++ [.gotByte (s.io.answerByte 0) ack])

@[simp] theorem afterRead_quiet (ack : Bool) (s : State) : (s.afterRead ack).quiet = s.quiet := rfl

theorem readBits_fold {s : State} (head : Nat) (hd : s.pins.sda = true) (hb : s.pos.bit = 7) :
    s.afterBits (fun _ => readCell) head 7 =
      ({ s with
        pins := { s.pins with scl := false }
        path := { s.path with shreg := s.io.answerByte 0, dly := 0 }
        pos := { s.pos with bit := 0, upc := head + 6 }
        io := s.io.after 8 (lineOfReadCell (s.io.answer 0) ++ lineOfReadCell (s.io.answer 1)
          ++ lineOfReadCell (s.io.answer 2) ++ lineOfReadCell (s.io.answer 3) ++ lineOfReadCell (s.io.answer 4)
          ++ lineOfReadCell (s.io.answer 5) ++ lineOfReadCell (s.io.answer 6) ++ lineOfReadCell (s.io.answer 7))
          [] } : State) := by
  have e := setBit_all s.path.shreg (fun j => s.io.answer (0 + j))
  simp only [Nat.zero_add] at e
  simp only [State.afterBits, readCell_fold]
  apply State.ext_groups <;> simp [State.afterCell, Io.after_after, Io.after_answer, Pins.held, hb, hd]
  simpa [Io.answerByte] using e

theorem busRead_quiet {s : State} (h : s.quiet = true) (ack : Bool) :
    busRead ack s = .ok (s.afterRead ack) := by
  obtain ⟨h7, h6, h5, h4, h3, h2, h1, h0⟩ := byteOf_bits (fun j => s.io.answer (0 + j))
  have hq1 : ((s.afterOp (.sda true)).atBit 7 (s.afterOp (.sda true)).pos.upc).quiet = true :=
    (quiet_of_port rfl).trans h
  have ha : (s.afterOp (.sda true)).io = s.io.after 0 [.sda true] (dataCondition s.pins true) := by
    simp [State.afterOp, State.perform, Io.after]
  simp only [busRead, runOps_quiet h, run_ok_bind, List.foldl, forBits, bitsFrom_quiet hq1]
  rw [readBits_fold _ rfl rfl]
  rw [runOps_quiet ((quiet_of_port (by simp [ha])).trans h), run_ok_bind, masterAckCell_fold, run_pure]
  simp only [State.atBit_io, ha, Io.after_answer, Io.after_answerByte, Io.after_after]
  simp only [Nat.zero_add] at h7 h6 h5 h4 h3 h2 h1 h0
  congr 1
  apply State.ext_groups <;>
    simp [State.afterCell, State.afterRead, State.afterOp, State.perform, Io.after_after, Pins.held, dataCondition]
  simp only [lineOfRead, Io.answerByte, Nat.zero_add, h7, h6, h5, h4, h3, h2, h1, h0]
  simp [Io.after]

end Sys2Proof.Machine
end

