-- ==== Sys2Proof/Laws/DacDevice.lean ====
section
/-!
SUPPORT. What the step tables of DacDevice do when the host leaves the port alone: the channel write, the
discovery, the re-addressing, the zeroing writes and the commit pulse, each as one explicit state.
-/

namespace Sys2Proof.Machine

/-- A channel write with its four checks acknowledged. -/
theorem channelWrite_quiet_acked {s : State} (h : s.quiet = true) (d k : Idx) (v : ChanValue)
    (ha : ∀ j < 4, s.io.answer j = false) :
    channelWrite d k v s = .ok
      { pins := s.pins.idle
        status := s.status
        rdata := s.rdata
        devs := s.devs.withCell d k v
        path := { s.path with shreg := channelByte2 v, smp := false, dly := 0 }
        pos := { s.pos with bit := 0, upc := 0, cwRet := s.pos.mpc }
        io := s.io.after 4 (lineOfChannelWrite (addressByte (vget s.devs.addr d) false) k v)
          (dataCondition s.pins true ++ wireOfChannelWrite (addressByte (vget s.devs.addr d) false) k v) } := by
  have q : ∀ {t : State}, t.io.port = s.io.port → t.quiet = true := fun e => (quiet_of_port e).trans h
  have a0 := ha 0 (by decide)
  have a1 := ha 1 (by decide)
  have a2 := ha 2 (by decide)
  have a3 := ha 3 (by decide)
  rw [channelWrite, busStart_quiet (by exact q rfl)]
  simp only [State.goto_io, State.setCwRet_io, a0, Bool.false_eq_true, if_false, run_ok_bind]
  rw [busWrite_quiet (by exact q rfl), run_ok_bind, busCheckAck_quiet (by exact q rfl), if_neg (by simp [State.afterWrite, State.afterStart, Io.after_answer, a1]), run_ok_bind]
  rw [busWrite_quiet (by exact q rfl), run_ok_bind, busCheckAck_quiet (by exact q rfl), if_neg (by simp [State.afterWrite, State.afterStart, State.afterCheckAck, Io.after_answer, a2]), run_ok_bind]
  rw [busWrite_quiet (by exact q rfl), run_ok_bind, busCheckAck_quiet (by exact q rfl), if_neg (by simp [State.afterWrite, State.afterStart, State.afterCheckAck, Io.after_answer, a3]), run_ok_bind]
  rw [busStop_quiet (by exact q rfl), run_ok_bind, serve_quiet (by exact q rfl), run_ok_bind, run_pure]
  congr 1
  apply State.ext_groups <;>
    simp [State.afterStop, State.afterWrite, State.afterStart, State.afterCheckAck, Io.after_after, Io.after_answer,
      a0, a1, a2, a3, Devices.withCell, lineOfChannelWrite, lineOfAckedByte, wireOfChannelWrite]
  simp [Pins.held]

/-- A channel write whose n-th check is the first that is not acknowledged: it ends there with NO_ACK. -/
theorem channelWrite_quiet_nack {s : State} (h : s.quiet = true) (d k : Idx) (v : ChanValue) {n : Nat} (hn : n < 4)
    (ha : s.io.firstNack 0 n) :
    let bytes := channelBytes (addressByte (vget s.devs.addr d) false) k v
    ∃ t, channelWrite d k v s = .error t ∧ t.pins = s.pins.held ∧
      t.status = { s.status with busy := false, done := true, err := .noAck, errDev := d } ∧
      t.rdata = s.rdata ∧ t.devs = s.devs ∧
      t.path = { s.path with shreg := bytes.getD n 0, smp := true, dly := 0 } ∧ t.pos.mpc = .idle ∧
      t.io = s.io.after (n + 1) (lineOfNack bytes n) (dataCondition s.pins true ++ wireOfNack bytes n) := by
  have q : ∀ {t : State}, t.io.port = s.io.port → t.quiet = true := fun e => (quiet_of_port e).trans h
  obtain ⟨hlt, hn1⟩ := ha
  simp only [Nat.zero_add] at hlt hn1
  have hc : n = 0 ∨ n = 1 ∨ n = 2 ∨ n = 3 := by omega
  rcases hc with rfl | rfl | rfl | rfl
  · refine ⟨_, by
      rw [channelWrite, busStart_quiet (by exact q rfl)]
      simp only [State.goto_io, State.setCwRet_io, hn1, if_true, run_error_bind]
      rfl, ?_, ?_, ?_, ?_, ?_, ?_, ?_⟩ <;> try rfl
    all_goals simp [State.afterStart, hn1, channelBytes, lineOfNack, wireOfNack, lineOfStart]
  · have a0 := hlt 0 (by decide)
    refine ⟨_, by
      rw [channelWrite, busStart_quiet (by exact q rfl)]
      simp only [State.goto_io, State.setCwRet_io, a0, Bool.false_eq_true, if_false, run_ok_bind]
      rw [busWrite_quiet (by exact q rfl), run_ok_bind, busCheckAck_quiet (by exact q rfl),
        if_pos (by simp [State.afterWrite, State.afterStart, Io.after_answer, hn1]), run_error_bind], ?_, ?_, ?_, ?_, ?_, ?_, ?_⟩ <;> try rfl
    all_goals simp [State.afterWrite, State.afterStart, State.afterCheckAck, Io.after_after, Io.after_answer,
      hn1, a0, channelBytes, lineOfNack, wireOfNack, lineOfStart, lineOfAckedByte]
  · have a0 := hlt 0 (by decide)
    have a1 := hlt 1 (by decide)
    refine ⟨_, by
      rw [channelWrite, busStart_quiet (by exact q rfl)]
      simp only [State.goto_io, State.setCwRet_io, a0, Bool.false_eq_true, if_false, run_ok_bind]
      rw [busWrite_quiet (by exact q rfl), run_ok_bind, busCheckAck_quiet (by exact q rfl),
        if_neg (by simp [State.afterWrite, State.afterStart, Io.after_answer, a1]), run_ok_bind,
        busWrite_quiet (by exact q rfl), run_ok_bind, busCheckAck_quiet (by exact q rfl),
        if_pos (by simp [State.afterWrite, State.afterStart, State.afterCheckAck, Io.after_answer, hn1]),
        run_error_bind], ?_, ?_, ?_, ?_, ?_, ?_, ?_⟩ <;> try rfl
    all_goals simp [State.afterWrite, State.afterStart, State.afterCheckAck, Io.after_after, Io.after_answer,
      hn1, a0, a1, channelBytes, lineOfNack, wireOfNack, lineOfStart, lineOfAckedByte]
  · have a0 := hlt 0 (by decide)
    have a1 := hlt 1 (by decide)
    have a2 := hlt 2 (by decide)
    refine ⟨_, by
      rw [channelWrite, busStart_quiet (by exact q rfl)]
      simp only [State.goto_io, State.setCwRet_io, a0, Bool.false_eq_true, if_false, run_ok_bind]
      rw [busWrite_quiet (by exact q rfl), run_ok_bind, busCheckAck_quiet (by exact q rfl),
        if_neg (by simp [State.afterWrite, State.afterStart, Io.after_answer, a1]), run_ok_bind,
        busWrite_quiet (by exact q rfl), run_ok_bind, busCheckAck_quiet (by exact q rfl),
        if_neg (by simp [State.afterWrite, State.afterStart, State.afterCheckAck, Io.after_answer, a2]), run_ok_bind,
        busWrite_quiet (by exact q rfl), run_ok_bind, busCheckAck_quiet (by exact q rfl),
        if_pos (by simp [State.afterWrite, State.afterStart, State.afterCheckAck, Io.after_answer, hn1]),
        run_error_bind], ?_, ?_, ?_, ?_, ?_, ?_, ?_⟩ <;> try rfl
    all_goals simp [State.afterWrite, State.afterStart, State.afterCheckAck, Io.after_after, Io.after_answer,
      hn1, a0, a1, a2, channelBytes, lineOfNack, wireOfNack, lineOfStart, lineOfAckedByte]

/-- `LDAC[d] <- v` as a step. -/
theorem latch_quiet {s : State} (h : s.quiet = true) (d : Idx) (v : Bool) :
    latch d v s = .ok (s.afterOp (.ldac d v)) := by
  simp [latch, runOp_quiet h]

/-- DI2 to DI8 with the three checks acknowledged and the latch high before. -/
theorem discover_quiet_acked {s : State} (h : s.quiet = true) (dev : Idx) (hl : vget s.pins.ldac dev = true)
    (ha : s.io.discovered 0) :
    discover dev s = .ok
      { pins := { s.pins.idle with ldac := vset s.pins.ldac dev true }
        status := s.status
        rdata := s.io.readback 0
        devs := s.devs
        path := { s.path with shreg := s.io.readback 0, smp := false, dly := 0, rb := s.io.readback 0 }
        pos := { s.pos with mpc := .di 8, bit := 0, upc := 1 }
        io := s.io.after 11 (lineOfDiscovery dev (s.io.readback 0)).tail
          (dataCondition s.pins true ++ wireOfDiscovery dev (s.io.readback 0)) } := by
  have q : ∀ {t : State}, t.io.port = s.io.port → t.quiet = true := fun e => (quiet_of_port e).trans h
  have a0 := ha 0 (by decide)
  have a1 := ha 1 (by decide)
  have a2 := ha 2 (by decide)
  simp only [Nat.zero_add] at a0 a1 a2
  rw [discover, busStart_quiet (by exact q rfl)]
  simp only [State.goto_io, a0, Bool.false_eq_true, if_false, run_ok_bind]
  rw [busWriteLatch_quiet (by exact q rfl), run_ok_bind, busCheckAck_quiet (by exact q rfl),
    if_neg (by simp [State.afterWriteLatch, State.afterStart, Io.after_answer, a1]), run_ok_bind,
    busStart_quiet (by exact q rfl),
    if_neg (by simp [State.afterWriteLatch, State.afterStart, State.afterCheckAck, Io.after_answer, a2]), run_ok_bind,
    busRead_quiet (by exact q rfl), run_ok_bind, busStop_quiet (by exact q rfl), run_ok_bind,
    latch_quiet (by exact q rfl)]
  congr 1
  apply State.ext_groups <;>
    simp [State.afterStop, State.afterWriteLatch, State.afterStart, State.afterRead, State.afterCheckAck, State.afterOp, State.perform, Io.after_after, Io.after_answer, Io.after_answerByte,
      a0, a1, a2, Io.readback, lineOfDiscovery, wireOfDiscovery, latchEdge, hl]
  · exact ⟨rfl, rfl⟩
  · have e0 : addressByte generalCall false = 0x00 := rfl
    have e1 : addressByte defaultAddr true = 0xC1 := rfl
    have e2 (p : Pins) (l : Vector Bool 4) :
        dataCondition { scl := p.held.scl, sda := p.held.sda, ldac := l } true = [] := rfl
    have e3 (p : Pins) (l : Vector Bool 4) :
        ({ scl := p.held.scl, sda := p.held.sda, ldac := l } : Pins).held.sda = false := rfl
    simp [Io.after, e0, e1, e2, e3, discoveryByte]

/-- DI11 to DI18 with the four checks acknowledged and the latch high before. -/
theorem readdress_quiet_acked {s : State} (h : s.quiet = true) (dev : Idx) (sel : Selector)
    (hl : vget s.pins.ldac dev = true) (ha : ∀ j < 4, s.io.answer j = false) :
    readdress dev sel s = .ok
      { pins := { s.pins.idle with ldac := vset s.pins.ldac dev true }
        status := s.status
        rdata := s.rdata
        devs := s.devs
        path := { s.path with shreg := readdressByte2 sel, smp := false, dly := 0 }
        pos := { s.pos with mpc := .di 18, bit := 0, upc := 5 }
        io := s.io.after 4 (lineOfReaddress dev s.path.curA sel)
          (dataCondition s.pins true ++ wireOfReaddress dev s.path.curA sel) } := by
  have q : ∀ {t : State}, t.io.port = s.io.port → t.quiet = true := fun e => (quiet_of_port e).trans h
  have a0 := ha 0 (by decide)
  have a1 := ha 1 (by decide)
  have a2 := ha 2 (by decide)
  have a3 := ha 3 (by decide)
  rw [readdress, busStart_quiet (by exact q rfl)]
  simp only [State.goto_io, a0, Bool.false_eq_true, if_false, run_ok_bind]
  rw [busWriteLatch_quiet (by exact q rfl), run_ok_bind, busCheckAck_quiet (by exact q rfl),
    if_neg (by simp [State.afterWriteLatch, State.afterStart, Io.after_answer, a1]), run_ok_bind,
    busWrite_quiet (by exact q rfl), run_ok_bind, busCheckAck_quiet (by exact q rfl),
    if_neg (by simp [State.afterWrite, State.afterWriteLatch, State.afterStart, State.afterCheckAck, Io.after_answer, a2]),
    run_ok_bind, busWrite_quiet (by exact q rfl), run_ok_bind, busCheckAck_quiet (by exact q rfl),
    if_neg (by simp [State.afterWrite, State.afterWriteLatch, State.afterStart, State.afterCheckAck, Io.after_answer, a3]),
    run_ok_bind, busStop_quiet (by exact q rfl), run_ok_bind, latch_quiet (by exact q rfl)]
  have e0 : addressByte (deviceAddr s.path.curA) false = deviceByte s.path.curA := rfl
  have e2 (p : Pins) (l : Vector Bool 4) (b : Bool) :
      dataCondition { scl := p.held.scl, sda := p.held.sda, ldac := l } b = [] := rfl
  congr 1
  apply State.ext_groups <;>
    simp [State.afterStop, State.afterWrite, State.afterWriteLatch, State.afterStart, State.afterCheckAck,
      State.afterOp, State.perform, Io.after_after, Io.after_answer, a0, a1, a2, a3, e0, e2, lineOfReaddress,
      lineOfAckedByte, wireOfReaddress, latchEdge, hl]
  · exact ⟨rfl, rfl⟩
  · have e3 (p : Pins) (l : Vector Bool 4) :
        ({ scl := p.held.scl, sda := p.held.sda, ldac := l } : Pins).held.sda = false := rfl
    simp [Io.after, e3]

/-- DI21 to DI23: the latch falls, `wait(H)`, the latch rises. -/
theorem commitPulse_quiet {s : State} (h : s.quiet = true) (dev : Idx) (hl : vget s.pins.ldac dev = true) :
    commitPulse dev s = .ok
      { pins := { s.pins with ldac := vset s.pins.ldac dev true }
        status := s.status
        rdata := s.rdata
        devs := s.devs
        path := { s.path with dly := 0 }
        pos := { s.pos with mpc := .di 23, upc := 1 }
        io := s.io.after 0 [.ldac dev false, .wait .h, .ldac dev true] [.latchFell dev, .latchRose dev] } := by
  have q : ∀ {t : State}, t.io.port = s.io.port → t.quiet = true := fun e => (quiet_of_port e).trans h
  rw [commitPulse, latch_quiet (by exact q rfl), run_ok_bind, runOps_quiet (by exact q rfl), run_ok_bind,
    latch_quiet (by exact q rfl)]
  congr 1
  apply State.ext_groups <;> simp [State.afterOp, State.perform, latchEdge, hl, Io.after]

/-- DI20 with the sixteen checks acknowledged. -/
theorem zeroChannels_quiet_acked {s : State} (h : s.quiet = true) (dev : Idx)
    (ha : ∀ j < 16, s.io.answer j = false) :
    zeroChannels dev s = .ok
      { pins := s.pins.idle
        status := s.status
        rdata := s.rdata
        devs := { s.devs with cache := vset s.devs.cache dev zeroRow }
        path := { s.path with shreg := 0x00, smp := false, dly := 0, kloop := 3 }
        pos := { s.pos with mpc := .di 20, bit := 0, upc := 0, cwRet := .di 20 }
        io := s.io.after 16
          ([0, 1, 2, 3].flatMap fun k => lineOfChannelWrite (addressByte (vget s.devs.addr dev) false) k 0)
          (dataCondition s.pins true ++
            [0, 1, 2, 3].flatMap fun k => wireOfChannelWrite (addressByte (vget s.devs.addr dev) false) k 0) } := by
  have q : ∀ {t : State}, t.io.port = s.io.port → t.quiet = true := fun e => (quiet_of_port e).trans h
  have c0 (j : Nat) (hj : j < 4) := ha j (by omega)
  have c1 (j : Nat) (hj : j < 4) := ha (4 + j) (by omega)
  have c2 (j : Nat) (hj : j < 4) := ha (8 + j) (by omega)
  have c3 (j : Nat) (hj : j < 4) := ha (12 + j) (by omega)
  have row : ∀ r : Vector ChanValue 4, vset (vset (vset (vset r 0 0) 1 0) 2 0) 3 0 = zeroRow := by
    intro r
    apply vec_ext
    intro i
    have hi : i = 0 ∨ i = 1 ∨ i = 2 ∨ i = 3 := by revert i; decide
    simp only [vget_vset, zeroRow, vget_replicate]
    rcases hi with rfl | rfl | rfl | rfl <;> rfl
  simp only [zeroChannels, zeroChannel]
  rw [channelWrite_quiet_acked (by exact q rfl) _ _ _ (by simpa using c0), run_ok_bind,
    channelWrite_quiet_acked (by exact q rfl) _ _ _ (by simpa [Io.after_answer] using c1), run_ok_bind,
    channelWrite_quiet_acked (by exact q rfl) _ _ _ (by simpa [Io.after_answer, ← Nat.add_assoc] using c2), run_ok_bind,
    channelWrite_quiet_acked (by exact q rfl) _ _ _ (by simpa [Io.after_answer, ← Nat.add_assoc] using c3)]
  congr 1
  have e (p : Pins) : dataCondition p.idle true = [] := rfl
  apply State.ext_groups <;> simp [Devices.withCell, Io.after_after, e]
  · rfl
  · exact congrArg _ (row _)
  · rfl

/-- DI10, and DI11 to DI18 if the chip has another selector, with the four checks acknowledged. -/
theorem readdressIfNeeded_quiet_acked {s : State} (h : s.quiet = true) (dev : Idx) (sel : Selector)
    (hl : vget s.pins.ldac dev = true) (ha : s.path.curA ≠ sel → ∀ j < 4, s.io.answer j = false) :
    readdressIfNeeded dev sel s = .ok (if s.path.curA = sel then s.goto (.di 10) else
      { pins := { s.pins.idle with ldac := vset s.pins.ldac dev true }
        status := s.status
        rdata := s.rdata
        devs := s.devs
        path := { s.path with shreg := readdressByte2 sel, smp := false, dly := 0 }
        pos := { s.pos with mpc := .di 18, bit := 0, upc := 5 }
        io := s.io.after 4 (lineOfReaddress dev s.path.curA sel)
          (dataCondition s.pins true ++ wireOfReaddress dev s.path.curA sel) }) := by
  have q : ∀ {t : State}, t.io.port = s.io.port → t.quiet = true := fun e => (quiet_of_port e).trans h
  rw [readdressIfNeeded, serve_quiet (by exact q rfl), run_ok_bind]
  by_cases hs : s.path.curA = sel
  · rw [if_pos (by exact hs), if_pos hs]; rfl
  · rw [if_neg (by exact hs), if_neg hs, readdress_quiet_acked (s := s.goto (.di 10)) (q rfl) dev sel hl (ha hs)]
    rfl

/-- What a latch assignment records. -/
theorem afterOp_ldac_io (s : State) (d : Idx) (v : Bool) :
    (s.afterOp (.ldac d v)).io = s.io.after 0 [.ldac d v] (latchEdge s.pins d v) := by
  simp [State.afterOp, State.perform, Io.after]

/-- DI1 to DI24 with every check acknowledged and a readback byte that passes the check bits. -/
theorem constructDevice_quiet_acked {s : State} (h : s.quiet = true) (c : Config.CheckBits) (dev : Idx)
    (sel : Selector) (hd : s.io.discovered 0) (hv : readbackValidWith c (s.io.readback 0) = true)
    (ha : ∀ j, 11 ≤ j → j < devinitSamples (s.io.readback 0) sel → s.io.answer j = false) :
    let rb := s.io.readback 0
    ∃ t, constructDevice c dev sel s = .ok t ∧ t.pins = { s.pins.idle with ldac := vset s.pins.ldac dev true } ∧
      t.status = s.status ∧ t.rdata = rb ∧ t.devs = s.devs.constructed dev sel ∧
      t.path = { s.path with shreg := 0x00, smp := false, dly := 0, rb := rb, curA := copyA rb, kloop := 3 } ∧
      t.pos.diRet = s.pos.diRet ∧
      t.io = s.io.after (devinitSamples rb sel) (lineOfDevinit dev rb sel) (wireOfDevinit s.pins dev rb sel) := by
  intro rb
  have q : ∀ {t : State}, t.io.port = s.io.port → t.quiet = true := fun e => (quiet_of_port e).trans h
  have io1 : ((s.goto (.di 1)).afterOp (.ldac dev true)).io = s.io.after 0 [.ldac dev true] (latchEdge s.pins dev true) :=
    afterOp_ldac_io _ _ _
  have rb1 : ((s.goto (.di 1)).afterOp (.ldac dev true)).io.readback 0 = rb := by
    rw [io1]; simp [Io.readback, Io.after_answerByte, rb]
  have z (j : Nat) (hj : j < 16) : s.io.answer (samplesToZeroing rb sel + j) = false :=
    ha _ (by unfold samplesToZeroing; split <;> omega) (by unfold devinitSamples; exact Nat.add_lt_add_left hj _)
  have pins : ∀ {a b : Bool}, a = true → b = true → a = s.pins.idle.scl ∧ b = s.pins.idle.sda ∧
      vset ((s.goto (.di 1)).afterOp (.ldac dev true)).pins.ldac dev true = vset s.pins.ldac dev true :=
    fun ha hb => ⟨ha, hb, by simp [State.afterOp, State.perform]⟩
  have e (p : Pins) (l : Vector Bool 4) : dataCondition { scl := p.idle.scl, sda := p.idle.sda, ldac := l } true = [] :=
    rfl
  rw [constructDevice, latch_quiet (by exact q rfl), run_ok_bind,
    discover_quiet_acked (by exact q rfl) dev (by simp [State.afterOp, State.perform])
      (by rw [io1]; simpa [Io.discovered, Io.after_answer] using hd), run_ok_bind, rb1, io1, Io.after_after,
    validate, if_pos (by exact hv), serve_quiet (by exact q rfl), run_ok_bind, run_pure, run_ok_bind,
    readdressIfNeeded_quiet_acked (by exact q rfl) dev sel (by simp) (by
      intro hne j hj
      have hne : copyA rb ≠ sel := hne
      have := ha (11 + j) (by omega) (by
        show 11 + j < devinitSamples rb sel
        unfold devinitSamples samplesToZeroing; rw [if_neg hne]; omega)
      simpa [Io.after_answer] using this), run_ok_bind]
  by_cases hs : copyA rb = sel
  · rw [if_pos (by exact hs), serve_quiet (by exact q rfl), run_ok_bind,
      zeroChannels_quiet_acked (by exact q rfl) dev (by
        intro j hj
        have := z j hj
        rw [samplesToZeroing, if_pos hs] at this
        simpa [Io.after_answer] using this), run_ok_bind,
      commitPulse_quiet (by exact q rfl) dev (by simp), run_ok_bind, serve_quiet (by exact q rfl), run_ok_bind, run_pure]
    refine ⟨_, rfl, ?_, rfl, ?_, ?_, ?_, rfl, ?_⟩ <;>
      simp [Io.after_after, e, devinitSamples, samplesToZeroing, hs, lineOfDevinit, lineToZeroing, lineOfZeroing,
        wireOfDevinit, wireToZeroing, wireOfZeroing, Devices.constructed]
    exacts [pins rfl rfl, ⟨rfl, rfl, rfl⟩, ⟨rfl, rfl, rfl, rfl, rfl, rfl⟩, rfl]
  · rw [if_neg (by exact hs), serve_quiet (by exact q rfl), run_ok_bind,
      zeroChannels_quiet_acked (by exact q rfl) dev (by
        intro j hj
        have := z j hj
        rw [samplesToZeroing, if_neg hs] at this
        simpa [Io.after_answer, ← Nat.add_assoc] using this), run_ok_bind,
      commitPulse_quiet (by exact q rfl) dev (by simp), run_ok_bind, serve_quiet (by exact q rfl), run_ok_bind, run_pure]
    refine ⟨_, rfl, ?_, rfl, ?_, ?_, ?_, rfl, ?_⟩ <;>
      simp [Io.after_after, e, devinitSamples, samplesToZeroing, hs, lineOfDevinit, lineToZeroing, lineOfZeroing,
        wireOfDevinit, wireToZeroing, wireOfZeroing, Devices.constructed]
    exacts [pins rfl rfl, ⟨rfl, rfl, rfl⟩, ⟨rfl, rfl, rfl, rfl, rfl, rfl⟩, rfl]
end Sys2Proof.Machine
end

