-- ==== Sys2Proof/Laws/Engine.lean ====
section
/-!
SUPPORT. The command run action by action beside the command run in one step: how the host's turn of `exec` is the
host's accesses of single steps, and how one micro-op is one or two actions of the engine.
-/

namespace Sys2Proof.Machine

/-! Runs of single steps while BUSY = 1. -/

/-- The machine comes from `s` to `t` by steps at BUSY = 1. -/
def Reaches (s t : State) : Prop := ∃ n, runWhileBusy n s = t

theorem runWhileBusy_idle {s : State} (h : s.status.busy = false) (n : Nat) : runWhileBusy n s = s := by
  cases n <;> simp [runWhileBusy, h]

theorem runWhileBusy_step {s t : State} (hb : s.status.busy = true) (h : step s = .next t) (n : Nat) :
    runWhileBusy (n + 1) s = runWhileBusy n t := by
  simp [runWhileBusy, hb, h]

theorem runWhileBusy_add (m n : Nat) (s : State) :
    runWhileBusy (m + n) s = runWhileBusy n (runWhileBusy m s) := by
  induction m generalizing s with
  | zero => simp [runWhileBusy]
  | succ m ih =>
    rw [Nat.add_right_comm]
    simp only [runWhileBusy]
    split
    · split <;> rename_i h
      · exact ih _
      · rename_i f; cases f
      · rename_i r
        cases n <;> simp [runWhileBusy, h]
    · rename_i hb
      exact (runWhileBusy_idle (by simpa using hb) n).symm

theorem Reaches.refl (s : State) : Reaches s s := ⟨0, rfl⟩

theorem Reaches.trans {s t u : State} (h : Reaches s t) (g : Reaches t u) : Reaches s u := by
  obtain ⟨m, rfl⟩ := h
  obtain ⟨n, rfl⟩ := g
  exact ⟨m + n, runWhileBusy_add m n s⟩

theorem Reaches.step {s t u : State} (hb : s.status.busy = true) (h : step s = .next t) (g : Reaches t u) :
    Reaches s u := by
  obtain ⟨n, rfl⟩ := g
  exact ⟨n + 1, runWhileBusy_step hb h n⟩

theorem step_busy {s : State} (hb : s.status.busy = true) : step s = busyStep s := by simp [step, hb]

/-- With the port left alone, a step at BUSY = 1 is one action of the engine. -/
theorem step_busy_quiet {s : State} (hb : s.status.busy = true) (h : s.quiet = true) :
    step s = .next s.engineTurn := by
  rw [step_busy hb, busyStep]
  unfold State.quiet at h
  split <;> simp_all

/-! The host's turn. -/

theorem serveList_setPort (es p : List PortEvent) (s : State) : serveList es (s.setPort p) = serveList es s := by
  induction es generalizing s with
  | nil => rfl
  | cons e es ih =>
    cases e with
    | write i w =>
      have e : (s.setPort p).busyWrite i = (s.busyWrite i).setPort p := by
        unfold State.busyWrite; split <;> rfl
      simp only [serveList, e, ih]
    | read i env => exact ih (s.portRead i env)
    | _ => rfl

theorem serveList_reaches (es : List PortEvent) (s : State) (hb : s.status.busy = true) (hp : s.io.port = es) :
    Post (fun u => Reaches s u.engineTurn) (Reaches s) (serveList es s) := by
  induction es generalizing s with
  | nil =>
    have e : s.setPort [] = s := by rw [← hp]; rfl
    exact .step hb ((step_busy hb).trans (by rw [busyStep, hp])) (by rw [e]; exact .refl _)
  | cons e es ih =>
    cases e with
    | tick => exact .step hb ((step_busy hb).trans (by rw [busyStep, hp])) (.refl _)
    | wait =>
      have e : s.setPort (.wait :: es) = s := by rw [← hp]; rfl
      exact .step hb ((step_busy hb).trans (by rw [busyStep, hp])) (by rw [e]; exact .refl _)
    | rst => exact .step hb ((step_busy hb).trans (by rw [busyStep, hp])) (.refl _)
    | write i w =>
      have hs := (step_busy hb).trans (by rw [busyStep, hp])
      have e : (s.setPort es).busyWrite i = (s.busyWrite i).setPort es := by
        unfold State.busyWrite; split <;> rfl
      have hb' : ((s.setPort es).busyWrite i).status.busy = true := by
        rw [← hb]; unfold State.busyWrite; split <;> rfl
      have hi := ih ((s.setPort es).busyWrite i) hb' (by rw [e]; rfl)
      rw [e, serveList_setPort, ← e] at hi
      exact hi.mono (fun _ h => .step hb hs h) (fun _ h => .step hb hs h)
    | read i env =>
      have hs := (step_busy hb).trans (by rw [busyStep, hp])
      have hi := ih ((s.setPort es).portRead i env) hb rfl
      have e : (s.setPort es).portRead i env = (s.portRead i env).setPort es := rfl
      rw [e, serveList_setPort, ← e] at hi
      exact hi.mono (fun _ h => .step hb hs h) (fun _ h => .step hb hs h)

/-- The host's turn of a running command is steps of the host's accesses; the step behind them is the engine's. -/
theorem serve_reaches {s : State} (hb : s.status.busy = true) :
    Post (fun u => Reaches s u.engineTurn) (Reaches s) (serve s) :=
  serveList_reaches s.io.port s hb rfl

/-! One micro-op. -/

/-- R9: no delay is 0. -/
theorem Delay.counts_ne_zero (d : Delay) : d.counts ≠ 0 := by
  obtain ⟨h1, h2, h3, h4, h5⟩ := Config.params.legal
  generalize hc : Config.params.clkHz = c, hb : Config.params.busHz = b, hn : Config.params.div = n at *
  have hq : Config.params.quarter = c / b / n := by rw [← hc, ← hb, ← hn]; rfl
  have hh : Config.params.half = c / b / (n / 2) := by rw [← hc, ← hb, ← hn]; rfl
  have ratio : n ≤ c / b := (Nat.le_div_iff_mul_le h1).2 (by omega)
  have q1 : 1 ≤ c / b / n := (Nat.le_div_iff_mul_le (by omega)).2 (by omega)
  have qh : c / b / n ≤ c / b / (n / 2) := Nat.div_le_div_left (by omega) (by omega)
  have hm : c / b / (n / 2) ≤ 65535 := h5
  cases d with
  | q => intro h; have := congrArg BitVec.toNat h; simp [Delay.counts, Config.quarter, hq] at this; omega
  | h => intro h; have := congrArg BitVec.toNat h; simp [Delay.counts, Config.half, hh] at this; omega

/-- The command of `cmd_r` runs, at a micro-op `m` of the primitive `p`. -/
structure AtMicroOp (i : Instr) (p : Prim) (m : MicroOp) (s : State) : Prop where
  busy : s.status.busy = true
  decoded : decode s.path.cmdR = .ok i
  running : s.pos.mpc ≠ .decode
  prim : primOf i s = some p
  op : p.op s.pos = some m

theorem AtMicroOp.engineTurn {i : Instr} {p : Prim} {m : MicroOp} {s : State} (h : AtMicroOp i p m s) :
    s.engineTurn = microOpTurn i p m s := by
  simp only [State.engineTurn, h.decoded, if_neg h.running, engineAct, h.prim, h.op]

theorem AtMicroOp.served {i : Instr} {p : Prim} {m : MicroOp} {s t : State} (h : AtMicroOp i p m s)
    (g : Served s t) : AtMicroOp i p m t := by
  obtain ⟨d, q, r, rfl⟩ := g
  exact ⟨h.busy, h.decoded, h.running, h.prim, h.op⟩

theorem AtMicroOp.setDly {i : Instr} {p : Prim} {m : MicroOp} {s : State} (h : AtMicroOp i p m s)
    (n : BitVec 16) : AtMicroOp i p m (s.setDly n) := ⟨h.busy, h.decoded, h.running, h.prim, h.op⟩

theorem Served.dly {s t : State} (h : Served s t) : t.path.dly = s.path.dly := by
  obtain ⟨d, q, r, rfl⟩ := h
  rfl

/-- At a micro-op, the host's turn is steps of the machine, and the step behind it performs the micro-op. -/
theorem AtMicroOp.serve_reaches {i : Instr} {p : Prim} {m : MicroOp} {s : State} (h : AtMicroOp i p m s) :
    Post (fun u => Served s u ∧ Reaches s (microOpTurn i p m u)) (Reaches s) (serve s) := by
  have turn := Machine.serve_reaches h.busy
  have served := serve_post s
  cases hs : serve s with
  | error t => rwa [hs] at turn
  | ok u =>
    rw [hs] at turn served
    exact ⟨served, (h.served served).engineTurn ▸ turn⟩

/-- One micro-op of `exec`, the host's turns with it, is steps of the machine, after which the engine settles the
position. -/
theorem runOp_reaches {i : Instr} {p : Prim} {m : MicroOp} {s : State} (h : AtMicroOp i p m s)
    (hd : s.path.dly = 0) : Post (fun u => Reaches s (settleStep i p u)) (Reaches s) (runOp m s) := by
  refine h.serve_reaches.bind ?_
  rintro u ⟨hu, turn⟩
  cases m with
  | wait d =>
    rw [microOpTurn, if_pos (hu.dly.trans hd)] at turn
    refine Post.bind (((h.served hu).setDly d.counts).serve_reaches.mono (fun _ h => h) fun _ h => turn.trans h) ?_
    rintro v ⟨hv, turn'⟩
    rw [microOpTurn, if_neg (hv.dly.symm ▸ d.counts_ne_zero)] at turn'
    exact turn.trans turn'
  | _ => exact turn

end Sys2Proof.Machine
end

