-- ==== Sys2Proof/Laws/PerInstr.lean ====
section
/-!
SUPPORT. The families of statements that are made per instruction: `OperandsInRange`, every command carries
operands in the ranges of the command text (30_encoding.md R100).
-/

namespace Sys2Proof.Laws

/-- R100: the operands of a command are in range. -/
def OperandsInRange.Statement (i : Instr) : Prop := i.wellFormed = true

theorem OperandsInRange.start (addr : BusAddr) (rd : Bool) : OperandsInRange.Statement (.start addr rd) := by
  simpa [OperandsInRange.Statement, Instr.wellFormed, Instr.toAsm, Asm.wellFormed] using addr.isLt
theorem OperandsInRange.write (byte : Byte) : OperandsInRange.Statement (.write byte) := by
  simpa [OperandsInRange.Statement, Instr.wellFormed, Instr.toAsm, Asm.wellFormed] using byte.isLt
theorem OperandsInRange.writel (byte : Byte) (dev : Idx) : OperandsInRange.Statement (.writel byte dev) := by
  simpa [OperandsInRange.Statement, Instr.wellFormed, Instr.toAsm, Asm.wellFormed] using ⟨byte.isLt, dev.isLt⟩
theorem OperandsInRange.read (ack : Bool) : OperandsInRange.Statement (.read ack) := rfl
theorem OperandsInRange.chkack : OperandsInRange.Statement .chkack := rfl
theorem OperandsInRange.stop : OperandsInRange.Statement .stop := rfl
theorem OperandsInRange.devinit (dev : Idx) (sel : Selector) : OperandsInRange.Statement (.devinit dev sel) := by
  simpa [OperandsInRange.Statement, Instr.wellFormed, Instr.toAsm, Asm.wellFormed] using ⟨dev.isLt, sel.isLt⟩
theorem OperandsInRange.setch (dev : Idx) (ch : BitVec 4) (value : BitVec 16) : OperandsInRange.Statement (.setch dev ch value) := by
  simpa [OperandsInRange.Statement, Instr.wellFormed, Instr.toAsm, Asm.wellFormed, and_assoc] using ⟨dev.isLt, ch.isLt, value.isLt⟩
theorem OperandsInRange.pinit : OperandsInRange.Statement .pinit := rfl
theorem OperandsInRange.pset (voice : BitVec 4) (role : Role) (value : BitVec 16) : OperandsInRange.Statement (.pset voice role value) := by
  simpa [OperandsInRange.Statement, Instr.wellFormed, Instr.toAsm, Asm.wellFormed] using ⟨voice.isLt, value.isLt⟩

end Sys2Proof.Laws
end

