-- ==== Sys2Proof/Tests/Slice0.lean ====
section
/-!
SUPPORT. Tests of the model, and the witnesses that the statements' hypotheses can be met. Expected values
are those of the spec: the formats of 30_encoding.md and the vectors E, V and P of 95_test_vectors.md, named
in the comments; none was taken from the model.
-/

namespace Sys2Proof.Tests

open Sys2Proof Sys2Proof.Machine

/-! WellFormed: an ill-formed term for each check of R100, which the check refuses. -/

theorem test_wf_start_address : (Asm.start 0x80 false).wellFormed = false := by decide
theorem test_wf_start_last : (Asm.start 0x7F true).wellFormed = true := by decide
theorem test_wf_write_byte : (Asm.write 0x100).wellFormed = false := by decide
theorem test_wf_writel_byte : (Asm.writel 0x100 0).wellFormed = false := by decide
theorem test_wf_writel_latch : (Asm.writel 0x0C 4).wellFormed = false := by decide
theorem test_wf_devinit_device : (Asm.devinit 4 1).wellFormed = false := by decide
theorem test_wf_devinit_selector : (Asm.devinit 0 8).wellFormed = false := by decide
theorem test_wf_setch_device : (Asm.setch 4 0 0).wellFormed = false := by decide
theorem test_wf_setch_channel : (Asm.setch 0 16 0).wellFormed = false := by decide
theorem test_wf_setch_value : (Asm.setch 0 0 0x10000).wellFormed = false := by decide
theorem test_wf_pset_voice : (Asm.pset 16 .gate 0).wellFormed = false := by decide
theorem test_wf_pset_value : (Asm.pset 0 .gate 0x10000).wellFormed = false := by decide
theorem test_wf_restart_address : (Asm.restart 0x80 true).wellFormed = false := by decide
theorem test_wf_writea_byte : (Asm.writea 0x100).wellFormed = false := by decide
theorem test_wf_probe_address : (Asm.probe 0x80).wellFormed = false := by decide
theorem test_wf_refused_line : (Asm.setch 4 0 0).assemble = none := by decide
/-- R95: an operand the operation rejects is well formed. -/
theorem test_wf_rejected_operand : (Instr.devinit 3 0).wellFormed = true := by decide

/-! Decoding: words written bit by bit from the formats of R91 (V27). -/

theorem test_decode_start : decode 0b0001_0000_0000_0000_0000_0000_1100_0010 = .ok (.start 0x61 false) := by rfl
theorem test_decode_write : decode 0b0010_0000_0000_0000_0000_0000_1010_0101 = .ok (.write 0xA5) := by rfl
theorem test_decode_writel : decode 0b0011_0000_0000_0000_0000_0010_0000_1100 = .ok (.writel 0x0C 2) := by rfl
theorem test_decode_read : decode 0b0100_0000_0000_0000_0000_0000_0000_0001 = .ok (.read true) := by rfl
theorem test_decode_chkack : decode 0b0101_0000_0000_0000_0000_0000_0000_0000 = .ok .chkack := by rfl
theorem test_decode_stop : decode 0b0110_0000_0000_0000_0000_0000_0000_0000 = .ok .stop := by rfl
theorem test_decode_devinit : decode 0b1000_0000_0000_0000_0000_0010_0000_0011 = .ok (.devinit 2 3) := by rfl
theorem test_decode_setch : decode 0b1001_0000_0001_0011_0000_1111_1111_1111 = .ok (.setch 1 3 0xFFF) := by rfl
theorem test_decode_pinit : decode 0b1010_0000_0000_0000_0000_0000_0000_0000 = .ok .pinit := by rfl
theorem test_decode_pset : decode 0b1011_0000_0010_0001_0000_1000_0000_0000 = .ok (.pset 2 .pitch 0x800) := by rfl
/-- V27n, V27o: wide fields, legal encodings. -/
theorem test_decode_wide_fields :
    decode 0x9000FFFF = .ok (.setch 0 0 0xFFFF) ∧ decode 0xB0F00000 = .ok (.pset 15 .gate 0) := ⟨rfl, rfl⟩
/-- The table's number of a one-word command is the word. -/
theorem test_decodeTableWord :
    decodeTableWord 32 0xB0210800 = some (.pset 2 .pitch 0x800) ∧ decodeTableWord 32 0x70000000 = none := ⟨rfl, rfl⟩

/-- V28a to V28c: opcodes that select no command. -/
theorem test_decode_unknown_opcodes :
    decode 0x00000000 = .error (.unknownOpcode 0) ∧ decode 0x70000000 = .error (.unknownOpcode 7) ∧
    decode 0xC0000000 = .error (.unknownOpcode 12) ∧ decode 0xD0000000 = .error (.unknownOpcode 13) ∧
    decode 0xE0000000 = .error (.unknownOpcode 14) ∧ decode 0xF0000000 = .error (.unknownOpcode 15) :=
  ⟨rfl, rfl, rfl, rfl, rfl, rfl⟩

/-- V28d to V28n: a reserved bit set. -/
theorem test_decode_reserved_bits :
    decode 0x10000100 = .error (.reservedBitSet "START") ∧ decode 0x20000100 = .error (.reservedBitSet "WRITE") ∧
    decode 0x30000400 = .error (.reservedBitSet "WRITEL") ∧ decode 0x40000002 = .error (.reservedBitSet "READ") ∧
    decode 0x50000001 = .error (.reservedBitSet "CHKACK") ∧ decode 0x68000000 = .error (.reservedBitSet "STOP") ∧
    decode 0x80000008 = .error (.reservedBitSet "DEVINIT") ∧ decode 0x90400000 = .error (.reservedBitSet "SETCH") ∧
    decode 0xA0000001 = .error (.reservedBitSet "PINIT") ∧ decode 0xB0040000 = .error (.reservedBitSet "PSET") ∧
    decode 0xB1000000 = .error (.reservedBitSet "PSET") :=
  ⟨rfl, rfl, rfl, rfl, rfl, rfl, rfl, rfl, rfl, rfl, rfl⟩

/-! Command text (R100, R101). -/

/-- The words of a line of text. -/
def wordsOf (line : List Char) : Option (List Nat) := (parseLine line).bind textWords

/-- R100, the worked lines. -/
theorem test_text_core :
    wordsOf "START 0x61, W".toList = some [0x100000C2] ∧ wordsOf "WRITEL 0x0C, 2".toList = some [0x3000020C] ∧
    wordsOf "DEVINIT 2, 3".toList = some [0x80000203] ∧ wordsOf "SETCH 0, 2, 0xABC".toList = some [0x90020ABC] ∧
    wordsOf "PSET 2, PITCH, 0x800".toList = some [0xB0210800] ∧ wordsOf "READ NACK".toList = some [0x40000000] := by
  decide

/-- R101, the pseudo-commands, and lines that are none. -/
theorem test_text_pseudo :
    wordsOf "RESTART 0x60, R".toList = some [0x100000C1] ∧
    wordsOf "WRITEA 0x44".toList = some [0x20000044, 0x50000000] ∧
    wordsOf "PROBE 0x61".toList = some [0x100000C2, 0x60000000] ∧ wordsOf "WAIT".toList = some [] ∧
    wordsOf "WRITE 256".toList = none ∧ wordsOf "START 0x61".toList = none := by
  decide

/-! Parameters (E3, R9). -/

theorem test_parameters_quarter_half :
    (Config.elaborate 72000000 100000 20).map (fun p => (p.quarter, p.half)) = some (36, 72) ∧
    (Config.elaborate 3000000 100000 20).map (fun p => (p.quarter, p.half)) = some (1, 3) ∧
    (Config.elaborate 72000000 400000 20).map (fun p => (p.quarter, p.half)) = some (9, 18) := by decide

theorem test_parameters_refused :
    (Config.elaborate 2000000 100000 20).isNone = true ∧ (Config.elaborate 1999999 100000 20).isNone = true ∧
    (Config.elaborate 72000000 100000 3).isNone = true := by decide

/-- R184, U5: other check bits, other readback bytes; 0x00 and 0xFF have equal copies. -/
theorem test_other_check_bits :
    readbackValidWith { mask := 0x11, value := 0x11 } 0xFF = true ∧
    readbackValidWith { mask := 0x11, value := 0x11 } 0x32 = false ∧
    readbackValidWith { mask := 0x00, value := 0x00 } 0x00 = true := by decide

/-- E3: the TIMING register. -/
theorem test_timing_word : timingWord 36 72 = 0x00480024 := by decide

/-! One command from a small state. -/

/-- The reset state with scripted answers of the environment. -/
def fresh (env : List Bool) : State := State.reset.withIo { State.reset.io with env := env }

/-- The same with the bus held (R137). -/
def heldBus (env : List Bool) : State := (fresh env).withPins { State.reset.pins with scl := false, sda := false }

/-- The four devices constructed as PINIT does (the start state of V30). -/
def panel (env : List Bool) : State := (fresh env).withDevs panelDevices

/-- The state after one step that runs a command word. -/
def after (w : Nat) (s : State) : State :=
  match step (s.withFetchWord 32 w) with
  | .next t => t
  | .fault _ | .refused _ => s

def acks (n : Nat) : List Bool := List.replicate n false
/-- The eight samples of a byte, bit 7 first. -/
def samplesOf (b : Byte) : List Bool :=
  [b.getLsbD 7, b.getLsbD 6, b.getLsbD 5, b.getLsbD 4, b.getLsbD 3, b.getLsbD 2, b.getLsbD 1, b.getLsbD 0]

/-- V3. -/
theorem test_start_acknowledged :
    (after 0x100000C2 (fresh [false])).byteTrace = [.start, .wrote 0xC2, .ack] ∧
    (after 0x100000C2 (fresh [false])).statusWord = 0x002 := by decide +kernel
/-- V4. -/
theorem test_start_not_acknowledged :
    (after 0x100000C2 (fresh [true])).byteTrace = [.start, .wrote 0xC2, .nack] ∧
    (after 0x100000C2 (fresh [true])).statusWord = 0x006 := by decide +kernel
/-- V8: the cells of 0xA5. -/
theorem test_write_line_trace :
    (after 0x200000A5 (heldBus [])).lineTrace =
      [true, false, true, false, false, true, false, true].flatMap (fun b =>
        [.sda b, .wait .q, .scl true, .wait .h, .scl false, .wait .q, .sda false]) := by decide +kernel
/-- V23: from idle a byte with bit 7 = 0 begins with a start condition. -/
theorem test_write_from_idle : (after 0x20000044 (fresh [])).byteTrace = [.start, .wrote 0x44] := by decide +kernel
/-- V11. -/
theorem test_writel_latch_falls :
    (after 0x3000020C (heldBus [])).byteTrace = [.latchFell 2, .wrote 0x0C] ∧
    (after 0x3000020C (heldBus [])).pins.ldac = #v[true, true, false, true] ∧
    (after 0x3000020C (heldBus [])).lineTrace.drop 49 =
      [.sda false, .wait .q, .scl true, .wait .h, .sclLdac 2, .wait .q, .sda false] := by decide +kernel
/-- V12: a latch that is low already shows no edge. -/
theorem test_writel_latch_low_already :
    (after 0x3000020C ((heldBus []).setLdac 2 false)).byteTrace = [.wrote 0x0C] := by decide +kernel
/-- V15. -/
theorem test_chkack_not_acknowledged :
    (after 0x50000000 (heldBus [true])).lineTrace =
      [.sda true, .wait .q, .scl true, .wait .h, .sample true, .scl false, .wait .q, .sda false] ∧
    (after 0x50000000 (heldBus [true])).status.err = .noAck := by decide +kernel
/-- V16. -/
theorem test_read_nack :
    (after 0x40000000 (heldBus (samplesOf 0x32))).byteTrace = [.gotByte 0x32 false] ∧
    (after 0x40000000 (heldBus (samplesOf 0x32))).rdata = 0x32 := by decide +kernel
/-- V19: the first sample is bit 7. -/
theorem test_read_first_sample :
    (after 0x40000001 (heldBus [true, false, false, false, false, false, false, false])).rdata = 0x80 := by
  decide +kernel
/-- V21. -/
theorem test_stop_from_held :
    (after 0x60000000 (heldBus [])).lineTrace = [.scl true, .wait .h, .sda true, .wait .h] ∧
    (after 0x60000000 (heldBus [])).byteTrace = [.stop] ∧
    (after 0x60000000 (heldBus [])).busIdle = true := by decide +kernel
/-- V22. -/
theorem test_stop_from_idle : (after 0x60000000 (fresh [])).byteTrace = [] := by decide +kernel
/-- V30. -/
theorem test_setch :
    (after 0x90020ABC (panel (acks 4))).byteTrace =
      [.start, .wrote 0xC2, .ack, .wrote 0x44, .ack, .wrote 0x8A, .ack, .wrote 0xBC, .ack, .stop] ∧
    vget (vget (after 0x90020ABC (panel (acks 4))).devs.cache 0) 2 = 0xABC := by decide +kernel
/-- V34. -/
theorem test_setch_value_4096 :
    (after 0x90101000 (panel [])).lineTrace = [] ∧ (after 0x90101000 (panel [])).statusWord = 0x1F2E := by
  decide +kernel
/-- The answers of a chip that reports `b` and needs no re-addressing. -/
def chip (b : Byte) : List Bool := acks 3 ++ samplesOf b ++ acks 16

/-- A zeroing write to the address byte 0xC2, from its opcode byte. -/
def zeroingWrite (o : Byte) : List WireEvent :=
  [.start, .wrote 0xC2, .ack, .wrote o, .ack, .wrote 0x80, .ack, .wrote 0x00, .ack, .stop]

/-- The discovery part of V40. -/
def discoveryPart : List WireEvent :=
  [.start, .wrote 0x00, .ack, .latchFell 0, .wrote 0x0C, .ack, .start, .wrote 0xC1, .ack, .gotByte 0x32 false,
    .stop, .latchRose 0]

/-- V40. -/
theorem test_devinit :
    (after 0x80000001 (fresh (chip 0x32))).byteTrace = discoveryPart ++ zeroingWrite 0x40 ++ zeroingWrite 0x42
      ++ zeroingWrite 0x44 ++ zeroingWrite 0x46 ++ [.latchFell 0, .latchRose 0] := by decide +kernel
/-- V47h: the re-addressing is done, and the first zeroing write is not acknowledged. -/
theorem test_devinit_aborts_at_zeroing :
    let t := after 0x80000102 (fresh (acks 3 ++ samplesOf 0x10 ++ acks 4 ++ [true]))
    t.byteTrace.drop 12 = [.start, .wrote 0xC0, .ack, .latchFell 1, .wrote 0x61, .ack, .wrote 0x6A, .ack,
      .wrote 0x6B, .ack, .stop, .latchRose 1, .start, .wrote 0xC4, .nack] ∧
    vget t.devs.addr 1 = 0x62 ∧ vget t.devs.valid 1 = false ∧ t.status.errDev = 1 := by decide +kernel

/-- V50: result, addresses and the least number of cycles at Q = 1, H = 2. -/
theorem test_pinit :
    let t := after 0xA0000000 (fresh (chip 0x32 ++ chip 0x54 ++ chip 0x76 ++ chip 0x98))
    t.statusWord = 0x1F02 ∧ t.devs.addr = #v[0x61, 0x62, 0x63, 0x64] ∧ t.rdata = 0x98 ∧
    cyclesOf 1 2 t.lineTrace = 6193 := by decide +kernel
/-- V52: the third chip's byte fails validation. -/
theorem test_pinit_mismatch :
    (after 0xA0000000 (fresh (chip 0x32 ++ chip 0x54 ++ acks 3 ++ samplesOf 0x74))).statusWord = 0x074A := by
  decide +kernel
/-- V55. -/
theorem test_pset :
    (after 0xB0210800 (panel (acks 4))).byteTrace =
      [.start, .wrote 0xC6, .ack, .wrote 0x44, .ack, .wrote 0x88, .ack, .wrote 0x00, .ack, .stop] ∧
    (after 0xB0210800 (panel (acks 4))).regRead 26 true = 0x800 := by decide +kernel
/-- V54, V58. -/
theorem test_pset_rejected :
    (after 0xB0400001 (panel [])).statusWord = 0x1F0E ∧ (after 0xB0121000 (panel [])).statusWord = 0x1F2E := by
  decide +kernel
/-- V28: an illegal word. -/
theorem test_illegal_word :
    (after 0x00000000 (fresh [])).statusWord = 0x112 ∧ (after 0x00000000 (fresh [])).lineTrace = [] := by
  decide +kernel

/-! The register port and reset. -/

/-- V60: the registers after reset, TIMING apart. -/
theorem test_reset_registers :
    State.reset.regRead 0 true = 0 ∧ State.reset.regRead 1 true = 0x100 ∧ State.reset.regRead 2 true = 0 ∧
    State.reset.regRead 4 true = 0xF7 ∧ State.reset.regRead 7 true = 0 ∧ State.reset.regRead 8 true = 0 ∧
    State.reset.regRead 15 true = 0 ∧ State.reset.regRead 16 true = 0 ∧ State.reset.regRead 31 true = 0 := by
  decide +kernel

/-- A reset state whose port holds these accesses. -/
def withPort (es : List PortEvent) (env : List Bool) : State := (fresh env).setPort es

/-- The state after one step. -/
def oneStep (s : State) : State :=
  match step s with
  | .next t => t
  | .fault _ | .refused _ => s

/-- V62: a STOP written while PINIT runs is dropped, and PINIT is not disturbed. -/
theorem test_dropped_write :
    (oneStep (withPort [.write 0 0xA0000000, .tick, .write 0 0x60000000]
      (chip 0x32 ++ chip 0x54 ++ chip 0x76 ++ chip 0x98))).statusWord = 0x1F82 := by decide +kernel
/-- The host resets the block in the `n`-th turn of a command. -/
def resetAfter (w : Word) (n : Nat) : List PortEvent := PortEvent.write 0 w :: (List.replicate n PortEvent.tick).concat .rst

/-- V64: a reset inside a DEVINIT, after 40 turns of the engine. -/
theorem test_reset_cuts :
    (oneStep (withPort (resetAfter 0x80000001 40) (chip 0x32))).statusWord = 0x100 := by decide +kernel
/-- V61: a write of STATUS is ignored. -/
theorem test_write_of_status : oneStep (withPort [.write 1 0xFFFFFFFF] []) = fresh [] := by decide +kernel
/-- V66: LINES after V11. -/
theorem test_lines_after_writel : (after 0x3000020C (heldBus [])).regRead 4 false = 0xB0 := by decide +kernel
/-- R188, SC0: an accepted SETCH of a device that is not valid, run action by action, ends with REJECT. -/
theorem test_busy_step :
    (runWhileBusy 2 ((fresh []).accept 0x90000000)).statusWord = 0x10E := by decide +kernel

/-- R148, R132: the first two actions of an accepted STOP from the held bus raise the clock and load `dly` with H. -/
theorem test_actions_of_stop :
    let s := runWhileBusy 2 ((heldBus []).accept 0x60000000)
    s.pins.scl = true ∧ s.pins.sda = false ∧ s.status.busy = true ∧ s.pos.mpc = .prim ∧ s.pos.upc = 1 ∧
    s.path.dly = Config.half ∧ s.lineTrace = [.scl true] :=
  ⟨rfl, rfl, rfl, rfl, rfl, rfl, rfl⟩

/-! The host of R101. -/

/-- The state after the host has run a list of lines. -/
def ran (as : List Asm) (s : State) : State := (hostProgram as s).getD s

/-- R101: the sequence stops at a WRITEA that is not acknowledged. -/
theorem test_writea_stops :
    (ran [.start 0x61 false, .writea 0x44, .write 0x55] (fresh [false, true])).byteTrace =
      [.start, .wrote 0xC2, .ack, .wrote 0x44, .nack] := by decide +kernel
/-- R101: the expansions, and a WAIT between two commands. -/
theorem test_writea_goes_on :
    (ran [.start 0x61 false, .writea 0x44, .wait, .stop, .probe 0x61] (fresh [false, false, true])).byteTrace =
      [.start, .wrote 0xC2, .ack, .wrote 0x44, .ack, .stop, .start, .wrote 0xC2, .nack, .stop] := by decide +kernel

/-! Witnesses: for each statement with hypotheses, a state and operands that meet them all. -/

theorem witness_DecodedWordIsTheEncoding : decode 0x90130FFF = .ok (.setch 1 3 0xFFF) := rfl
theorem witness_OpcodePatternsAreDisjoint :
    ∃ r q, opcodeMap[0]? = some r ∧ opcodeMap[9]? = some q ∧ r.fits 0x100000C2 = true ∧ q.fits 0xB0210800 = true :=
  ⟨_, _, rfl, rfl, rfl, rfl⟩
theorem witness_ReservedWordsAreRejected :
    opcodeOf 0x00000000 ∈ [0x0#4, 0x7#4, 0xC#4, 0xD#4, 0xE#4, 0xF#4] ∧
    opcodeOf 0xFFFFFFFF ∈ [0x0#4, 0x7#4, 0xC#4, 0xD#4, 0xE#4, 0xF#4] ∧
    ∃ r ∈ opcodeMap, opcodeOf 0xB1000000 = opcodeOf r.pattern ∧ 0xB1000000#32 &&& r.mask ≠ r.pattern := by
  refine ⟨by decide, by decide, ⟨_, _, _, _⟩, List.mem_of_getElem? (i := 9) rfl, by decide, by decide⟩
theorem witness_StepRunsTheWrittenCommand :
    (withPort [.write 0 0x60000000] []).status.busy = false ∧
    (withPort [.write 0 0x60000000] []).io.port = .write 0 0x60000000 :: [] ∧ decode 0x60000000 = .ok .stop :=
  ⟨rfl, rfl, rfl⟩
theorem witness_IllegalWordCompletes :
    (withPort [.write 0 0x70000000, .wait] []).status.busy = false ∧
    (withPort [.write 0 0x70000000, .wait] []).io.port = .write 0 0x70000000 :: [.wait] ∧
    ((withPort [.write 0 0x70000000, .wait] []).setPort [.wait]).quiet = true ∧
    decode 0x70000000 = .error (.unknownOpcode 7) := ⟨rfl, rfl, rfl, rfl⟩
theorem witness_CmdWriteIsAcceptedOrDropped :
    ((withPort [.write 0 0x60000000] []).accept 0xA0000000).io.port = .write 0 0x60000000 :: [] ∧
    ((withPort [.write 0 0x60000000] []).accept 0xA0000000).status.busy = true ∧
    (((withPort [.write 0 0x60000000] []).accept 0xA0000000).setPort []).quiet = true := ⟨rfl, rfl, rfl⟩
theorem witness_ReadsAndOtherWritesHaveNoEffect :
    (withPort [.read 1 true] []).io.port = .read 1 true :: [] ∧
    (withPort [.write 31 0xFFF] []).io.port = .write 31 0xFFF :: [] ∧ (31 : RegIdx) ≠ 0 ∧
    (withPort [.write 1 0] []).io.port = .write 1 0 :: [] ∧ (1 : RegIdx) ≠ 0 := by
  exact ⟨rfl, rfl, by decide, rfl, by decide⟩
theorem witness_reserved_indices :
    ∀ idx ∈ [5#5, 7, 12, 15], (5 ≤ idx ∧ idx ≤ 7) ∨ (12 ≤ idx ∧ idx ≤ 15) := by decide
theorem witness_ResetValues : (withPort [.rst] []).io.port = .rst :: [] := rfl
theorem witness_ResetCutsACommand :
    (withPort (List.replicate 0 .tick ++ [.rst]) []).io.port = List.replicate 0 .tick ++ [.rst] ∧
    (withPort (List.replicate 40 .tick ++ [.rst]) []).io.port = List.replicate 40 .tick ++ [.rst] := ⟨rfl, rfl⟩
theorem witness_RunningCommandIsUndisturbed :
    (withPort [.write 0 0x60000000, .tick, .read 2 true, .write 5 1, .wait] []).noReset = true := rfl
/-- The CMD write lands first, or after other turns of the engine and other accesses (V62, P6). -/
theorem witness_DropRecordsADroppedWrite :
    (withPort [.write 0 0x60000000, .tick] []).noReset = true ∧
    (withPort [.tick, .read 1 true, .tick, .write 0 0x60000000] []).noReset = true ∧
    (∀ e ∈ (withPort [.tick, .write 1 0, .read 1 true] []).io.port, ∀ w, e ≠ .write 0 w) := by
  refine ⟨rfl, rfl, ?_⟩
  intro e he w
  simp only [withPort, fresh, State.setPort, State.withIo, List.mem_cons, List.not_mem_nil, or_false] at he
  rcases he with rfl | rfl | rfl <;> simp
/-- The port of a host that writes CMD after a tick is used up by PINIT, and DROP is then 1. -/
theorem witness_dropped_after_a_tick :
    ∃ t, exec .pinit (withPort [.tick, .write 0 0x60000000] [true]) = .next t ∧ t.io.port = [] ∧ t.status.drop = true :=
  ⟨_, rfl, by decide +kernel⟩
/-- The hypothesis of StartResult, WriteResult, WritelResult, ChkackResult, ReadResult, StopResult,
DevinitRejectsSelectorZero and PrimitiveCycleCounts. -/
theorem witness_quiet : State.reset.quiet = true ∧ (withPort [.wait, .rst] []).quiet = true := ⟨rfl, rfl⟩
theorem witness_RepeatedStartMakesNoStop :
    (heldBus []).quiet = true ∧ (heldBus []).pins.scl = false ∧ (heldBus []).pins.sda = false := ⟨rfl, rfl, rfl⟩
/-- The first value out of range for each check of SETCH, the device valid or not. -/
theorem witness_SetchRejects :
    (panel []).quiet = true ∧ 3 < (4#4).toNat ∧ 4095 < (4096#16).toNat ∧
    State.reset.quiet = true ∧ vget State.reset.devs.valid 2 = false := by decide
/-- The last values in range; also the hypotheses of the SETCH clause of PrimitiveCycleCounts. -/
theorem witness_SetchWritesTheChannel :
    (panel (acks 4)).quiet = true ∧ (3#4).toNat ≤ 3 ∧ (4095#16).toNat ≤ 4095 ∧
    vget (panel (acks 4)).devs.valid 1 = true ∧ ∀ j < 4, (panel (acks 4)).io.answer j = false := by decide
/-- For the first check and for the last (V36, V39). -/
theorem witness_SetchEndsAtTheFirstNack :
    ∀ n < 4, (panel (acks n ++ [true])).quiet = true ∧ vget (panel (acks n ++ [true])).devs.valid 0 = true ∧
      (∀ j < n, (panel (acks n ++ [true])).io.answer (0 + j) = false) ∧
      (panel (acks n ++ [true])).io.answer (0 + n) = true := by decide

/-- The answers of a chip that reports `b` and is re-addressed. -/
def movedChip (b : Byte) : List Bool := acks 3 ++ samplesOf b ++ acks 20

/-- Without and with re-addressing (V40, V42), and at the last selector (V44). -/
theorem witness_DevinitConstructsTheDevice :
    (fresh (chip 0x32)).io.constructs 0 1 ∧ (fresh (movedChip 0x10)).io.constructs 0 3 ∧
    (fresh (chip 0xFE)).io.constructs 0 7 := by
  simp only [Io.constructs, Io.discovered]
  decide +kernel
/-- V41, V41b. -/
theorem witness_DevinitReportsAMismatch :
    ∀ b ∈ [0xA2#8, 0x22, 0x33, 0xFF, 0x00], (fresh (chip b)).quiet = true ∧
      (∀ j < 3, (fresh (chip b)).io.answer (0 + j) = false) ∧
      readbackValid ((fresh (chip b)).io.readback 0) = false := by decide +kernel
/-- A readback byte that passes some check bits and fails others. -/
theorem witness_CheckBitsDecideTheMismatch :
    (fresh (chip 0x32)).quiet = true ∧ (∀ j < 3, (fresh (chip 0x32)).io.answer (0 + j) = false) ∧
    readbackValidWith { mask := 0x11, value := 0x10 } ((fresh (chip 0x32)).io.readback 0) = true ∧
    readbackValidWith { mask := 0x01, value := 0x01 } ((fresh (chip 0x32)).io.readback 0) = false := by decide +kernel
/-- V47a to V47c. -/
theorem witness_DevinitNackInDiscovery :
    ∀ n < 3, (∀ j < n, (fresh (acks n ++ [true])).io.answer (0 + j) = false) ∧
      (fresh (acks n ++ [true])).io.answer (0 + n) = true := by decide
/-- V47d to V47g. -/
theorem witness_DevinitNackInReaddressing :
    ∀ n < 4, let io := (fresh (acks 3 ++ samplesOf 0x10 ++ acks n ++ [true])).io;
      (∀ j < 3, io.answer (0 + j) = false) ∧ readbackValid (io.readback 0) = true ∧
      (io.readback 0).extractLsb' 5 3 ≠ 2#3 ∧ (∀ j < n, io.answer (11 + j) = false) ∧
      io.answer (11 + n) = true := by decide +kernel
/-- The hypotheses of DevinitNackInZeroing of the environment, for target selector 2. -/
abbrev zeroingNack (io : Io) (k j : Nat) : Prop :=
  (∀ m < 3, io.answer (0 + m) = false) ∧ readbackValid (io.readback 0) = true ∧
  (∀ m, 11 ≤ m → m < samplesToZeroing (io.readback 0) 2 → io.answer m = false) ∧
  (∀ m < 4 * k + j, io.answer (samplesToZeroing (io.readback 0) 2 + m) = false) ∧
  io.answer (samplesToZeroing (io.readback 0) 2 + (4 * k + j)) = true

/-- V47h with re-addressing, and the last check of the last zeroing write without. -/
theorem witness_DevinitNackInZeroing :
    zeroingNack (fresh (acks 3 ++ samplesOf 0x10 ++ acks 4 ++ [true])).io 0 0 ∧
    zeroingNack (fresh (acks 3 ++ samplesOf 0x54 ++ acks 15 ++ [true])).io 3 3 := by decide +kernel
/-- V50. -/
theorem witness_PinitBringsUpThePanel :
    (fresh (chip 0x32 ++ chip 0x54 ++ chip 0x76 ++ chip 0x98)).io.panelConstructs := by
  simp only [Io.panelConstructs, Io.constructs, Io.discovered]
  decide +kernel
/-- A failure at the first device, at the third (V52) and at the last. -/
theorem witness_PinitStopsAtTheFailingDevice :
    (∃ t, exec .pinit (fresh [true]) = .next t ∧ t.status.err ≠ .ok ∧ t.status.errDev = 0) ∧
    (∃ t, exec .pinit (fresh (chip 0x32 ++ chip 0x54 ++ acks 3 ++ samplesOf 0x74)) = .next t ∧
      t.status.err ≠ .ok ∧ t.status.errDev = 2) ∧
    ∃ t, exec .pinit (fresh (chip 0x32 ++ chip 0x54 ++ chip 0x76 ++ [true])) = .next t ∧
      t.status.err ≠ .ok ∧ t.status.errDev = 3 :=
  ⟨⟨_, rfl, by decide +kernel⟩, ⟨_, rfl, by decide +kernel⟩, ⟨_, rfl, by decide +kernel⟩⟩
/-- The second clause: a DEVINIT from where PINIT is at the first device and at the last, with a missing
acknowledge. -/
theorem witness_pinit_failing_device :
    (∃ v, exec (.devinit 0 (panelSelector 0)) ((fresh [true]).atPanelDevice 0) = .next v ∧ v.status.err ≠ .ok) ∧
    let s := fresh (chip 0x32 ++ chip 0x54 ++ chip 0x76 ++ [true])
    (∀ d < 3, s.io.constructs (s.io.panelOffset d) (panelSelector (BitVec.ofNat 2 d))) ∧
    ∃ v, exec (.devinit 3 (panelSelector 3)) (s.atPanelDevice 3) = .next v ∧ v.status.err ≠ .ok := by
  refine ⟨⟨_, rfl, by decide +kernel⟩, ?_, ⟨_, rfl, by decide +kernel⟩⟩
  simp only [Io.constructs, Io.discovered]
  decide +kernel
theorem witness_PinitHoldsAtMostOneLatchLow :
    (fresh []).noReset = true ∧ ∃ t, exec .pinit (fresh []) = .next t := ⟨rfl, _, rfl⟩
theorem witness_PsetRejects :
    (panel []).quiet = true ∧ 3 < (4#4).toNat ∧ 4095 < (4096#16).toNat ∧
    State.reset.quiet = true ∧ vget State.reset.devs.valid ((2#4).extractLsb' 0 2) = false := by decide
theorem witness_PsetWritesTheVoice :
    (panel (acks 4)).quiet = true ∧ (3#4).toNat ≤ 3 ∧ (4095#16).toNat ≤ 4095 ∧
    vget (panel (acks 4)).devs.valid ((3#4).extractLsb' 0 2) = true ∧
    ∀ j < 4, (panel (acks 4)).io.answer j = false := by decide
theorem witness_PsetEndsAtTheFirstNack :
    ∀ n < 4, (panel (acks n ++ [true])).quiet = true ∧
      vget (panel (acks n ++ [true])).devs.valid ((3#4).extractLsb' 0 2) = true ∧
      (∀ j < n, (panel (acks n ++ [true])).io.answer (0 + j) = false) ∧
      (panel (acks n ++ [true])).io.answer (0 + n) = true := by decide
theorem witness_StepKeepsTheInvariant : State.reset.Inv ∧ ∃ t, step State.reset = .next t := ⟨by decide, _, rfl⟩
/-- A command word and a word that does not decode, in a state in which no wait is counted. -/
theorem witness_ActionsRunTheCommand :
    State.reset.path.dly = 0 ∧ decode 0x70000000 = .error (.unknownOpcode 7) := ⟨rfl, rfl⟩
/-- Acknowledged and not, with lines behind that are in range, and one that is not. -/
theorem witness_WriteaStopsTheSequence :
    ∀ b : Bool, (fresh [b]).status.busy = false ∧ (fresh [b]).io.port = [] ∧ (fresh [b]).io.answer 0 = b ∧
      ∀ a ∈ [Asm.stop, .writea 0xFF, .wait], a.wellFormed = true ∧ (Asm.writea 0x100).wellFormed = false := by decide
/-- The panel after PINIT is in order, with valid devices. -/
theorem witness_inv_panel : (panel []).Inv := by decide
/-- The hypotheses of CommandsEndAtABoundary, SamplesEndAHighPhase, RdataIsWrittenOnlyByReads,
LatchesBelongToTheirDevice, DeviceRegistersChangeOnlyByTheirCommands and CompositeAddressBytes. -/
theorem witness_every_command :
    (panel []).noReset = true ∧ (panel []).atBoundary = true ∧ (panel []).Inv ∧ ∀ i, ∃ t, exec i (panel []) = .next t := by
  refine ⟨rfl, rfl, by decide, fun i => ?_⟩
  cases i <;> exact ⟨_, rfl⟩
/-- The three codes of LinesAfterAnAbort, CommandsEndWithTheirCodes and ErrDevNamesTheDevice. -/
theorem witness_LinesAfterAnAbort :
    (∃ t, exec .chkack (fresh [true]) = .next t ∧ t.status.err = .noAck) ∧
    (∃ t, exec (.devinit 0 1) (fresh (chip 0xA2)) = .next t ∧ t.status.err = .addrMismatch) ∧
    (∃ t, exec (.devinit 0 0) (fresh []) = .next t ∧ t.status.err = .reject) :=
  ⟨⟨_, rfl, by decide +kernel⟩, ⟨_, rfl, by decide +kernel⟩, ⟨_, rfl, by decide +kernel⟩⟩
/-- The clauses on a word that does not decode. -/
theorem witness_ErrDevNamesTheDevice :
    decode 0x00000000 = .error (.unknownOpcode 0) ∧
    ∃ t, runCommand 0x00000000 (fresh []) = .next t ∧ t.status.err = .illegal := ⟨rfl, _, rfl, rfl⟩
/-- A success, for the clauses of DeviceRegistersChangeOnlyByTheirCommands. -/
theorem witness_success :
    (∃ t, exec (.setch 1 3 0xFFF) (panel (acks 4)) = .next t ∧ t.status.err = .ok) ∧
    (∃ t, exec (.devinit 0 1) (fresh (chip 0x32)) = .next t ∧ t.status.err = .ok) :=
  ⟨⟨_, rfl, by decide +kernel⟩, ⟨_, rfl, by decide +kernel⟩⟩
theorem witness_SilentBusEndsAtTheFirstByte :
    (panel [true]).quiet = true ∧ (panel [true]).atBoundary = true ∧ (panel [true]).io.answer 0 = true ∧
    vget (panel [true]).devs.valid 0 = true := ⟨rfl, rfl, rfl, rfl⟩

end Sys2Proof.Tests
end

/-! The delays of a legal parameter set (R8, R9, R313). -/

namespace Sys2Proof.Config

/-- R8: DIV is even, so the quarter-bit delay is the half-bit delay halved and rounded down. -/
theorem quarterOf_eq_halfOf_div_two {clkHz busHz div : Nat} (even : div % 2 = 0) :
    quarterOf clkHz busHz div = halfOf clkHz busHz div / 2 := by
  have hdiv : div / 2 * 2 = div := Nat.div_mul_cancel (Nat.dvd_of_mod_eq_zero even)
  rw [quarterOf, halfOf, Nat.div_div_eq_div_mul, hdiv]

/-- R9: the clock is above `DIV * BUS_HZ`, so the ratio holds DIV at least once. -/
theorem Legal.div_le_ratioOf {clkHz busHz div : Nat} (h : Legal clkHz busHz div) : div ≤ ratioOf clkHz busHz := by
  obtain ⟨busPos, _, _, clkAbove, _⟩ := h
  exact (Nat.le_div_iff_mul_le busPos).2 clkAbove.le

namespace Params

theorem quarter_eq_half_div_two (p : Params) : p.quarter = p.half / 2 := by
  obtain ⟨_, _, even, _, _⟩ := p.legal
  exact quarterOf_eq_halfOf_div_two even

theorem two_le_half (p : Params) : 2 ≤ p.half := by
  have hratio := p.legal.div_le_ratioOf
  obtain ⟨_, divTwo, _, _, _⟩ := p.legal
  exact (Nat.le_div_iff_mul_le (by omega)).2 (by omega)

theorem half_lt_two_pow (p : Params) : p.half < 2 ^ 16 := by
  obtain ⟨_, _, _, _, halfMax⟩ := p.legal
  exact Nat.lt_succ_of_le halfMax

end Params

end Sys2Proof.Config

namespace Sys2Proof

/-- Settles O56: the half delay is at least 2 and fits 16 bits, and the quarter delay is its half. -/
theorem delaysOfLegalParameters : Obligations.DelaysOfLegalParameters := by
  intro p
  have hq := p.quarter_eq_half_div_two
  have hmin := p.two_le_half
  have hmax := p.half_lt_two_pow
  have hfits : p.quarter < 2 ^ 16 := by omega
  refine ⟨by omega, hmin, by omega, by omega, ?_, ?_⟩
  · rw [BitVec.toNat_ofNat, Nat.mod_eq_of_lt hfits]
  · rw [BitVec.toNat_ofNat, Nat.mod_eq_of_lt hmax]

end Sys2Proof

/-! A running command beside the same command with the port left alone (R32, R44, R73). -/

namespace Sys2Proof.Machine

/-- R32: the accesses that set DROP while a command runs. -/
def PortEvent.writesCmd : PortEvent → Bool
  | .write i _ => i = 0
  | .read _ _ | .rst | .tick | .wait => false

theorem any_writesCmd_iff (es : List PortEvent) :
    es.any PortEvent.writesCmd = true ↔ ∃ w, PortEvent.write 0 w ∈ es := by
  rw [List.any_eq_true]
  constructor
  · rintro ⟨e, he, hw⟩
    cases e with
    | write i w => exact ⟨w, (of_decide_eq_true hw : i = 0) ▸ he⟩
    | _ => simp [PortEvent.writesCmd] at hw
  · rintro ⟨w, hw⟩
    exact ⟨_, hw, rfl⟩

theorem noReset_iff (s : State) : s.noReset = true ↔ PortEvent.rst ∉ s.io.port := by
  rw [State.noReset, List.all_eq_true]
  constructor
  · intro h hr
    exact absurd (h _ hr) (by decide)
  · intro h e he
    cases e with
    | rst => exact absurd he h
    | _ => rfl

/-- A state with the three fields that accesses of the host other than a reset can change. -/
def State.withHost (drop : Bool) (port : List PortEvent) (reads : List (RegIdx × Word)) (s : State) : State :=
  (s.withStatus { s.status with drop := drop }).withIo { s.io with port := port, reads := reads }

/-- The state after the accesses `pre`: DROP records a CMD write among them (R32, R33). -/
def State.afterAccesses (pre post : List PortEvent) (reads : List (RegIdx × Word)) (s : State) : State :=
  s.withHost (s.status.drop || pre.any PortEvent.writesCmd) post reads

theorem setPort_eq_afterAccesses {pre : List PortEvent} (hpre : pre.any PortEvent.writesCmd = false)
    (post : List PortEvent) (s : State) : s.setPort post = s.afterAccesses pre post s.io.reads := by
  rw [State.afterAccesses, hpre, Bool.or_false]; rfl

/-- The host's turn: it does a part of its accesses that holds no reset, or it resets the block. -/
theorem serveList_cases (es : List PortEvent) (s : State) :
    (∃ pre post reads, es = pre ++ post ∧ PortEvent.rst ∉ pre ∧
      serveList es s = .ok (s.afterAccesses pre post reads)) ∨
    (PortEvent.rst ∈ es ∧ ∃ v, serveList es s = .error (State.hardReset v)) := by
  induction es generalizing s with
  | nil => exact .inl ⟨[], [], s.io.reads, rfl, by simp, congrArg Except.ok (setPort_eq_afterAccesses rfl [] s)⟩
  | cons e es ih =>
    have later {s' : State} (hs : serveList (e :: es) s = serveList es s') (hr : e ≠ .rst)
        (hacc : ∀ pre post reads, s'.afterAccesses pre post reads = s.afterAccesses (e :: pre) post reads) :
        (∃ pre post reads, e :: es = pre ++ post ∧ PortEvent.rst ∉ pre ∧
          serveList (e :: es) s = .ok (s.afterAccesses pre post reads)) ∨
        (PortEvent.rst ∈ e :: es ∧ ∃ v, serveList (e :: es) s = .error (State.hardReset v)) := by
      obtain ⟨pre, post, reads, rfl, hpre, hok⟩ | ⟨hmem, v, hv⟩ := ih s'
      · exact .inl ⟨e :: pre, post, reads, rfl, by simp [hpre, hr.symm], by rw [hs, hok, hacc]⟩
      · exact .inr ⟨List.mem_cons_of_mem _ hmem, v, hs.trans hv⟩
    cases e with
    | tick => exact .inl ⟨[.tick], es, s.io.reads, rfl, by simp, congrArg Except.ok (setPort_eq_afterAccesses rfl es s)⟩
    | wait =>
      exact .inl ⟨[], .wait :: es, s.io.reads, rfl, by simp, congrArg Except.ok (setPort_eq_afterAccesses rfl _ s)⟩
    | rst => exact .inr ⟨List.mem_cons_self, _, rfl⟩
    | read i env => exact later (s' := s.portRead i env) rfl (by simp) fun _ _ _ => rfl
    | write i w =>
      refine later (s' := s.busyWrite i) rfl (by simp) fun pre post reads => ?_
      by_cases hi : i = 0
      · simp [State.afterAccesses, State.withHost, State.busyWrite, hi, PortEvent.writesCmd]
      · rw [State.busyWrite, if_neg hi]
        simp only [State.afterAccesses, List.any_cons, PortEvent.writesCmd, decide_eq_false hi, Bool.false_or]

/-- `s` is the command's state beside `u`, its state with the port left alone: the host has done a part of its
accesses `es`, which holds no reset, and only DROP, the port and the reads tell of it. -/
def Beside (es : List PortEvent) (u s : State) : Prop :=
  u.io.port = [] ∧ ∃ pre post reads, es = pre ++ post ∧ PortEvent.rst ∉ pre ∧ s = u.afterAccesses pre post reads

/-- One of the accesses `es` is a reset, and it has ended the command (R282). -/
def Cut (es : List PortEvent) (s : State) : Prop := PortEvent.rst ∈ es ∧ ∃ v, s = State.hardReset v

/-- The command `r`, run with a host that does `es`, goes the way of `q`, the same command with the port left
alone, unless a reset cuts it. -/
inductive Follows (es : List PortEvent) : Except State State → Except State State → Prop
  | running {u s : State} (h : Beside es u s) : Follows es (.ok s) (.ok u)
  | stopped {u s : State} (h : Beside es u s) : Follows es (.error s) (.error u)
  | cut {s : State} (h : Cut es s) (q : Except State State) : Follows es (.error s) q

theorem Beside.quiet {es : List PortEvent} {u s : State} (h : Beside es u s) : u.quiet = true := by
  rw [State.quiet, h.1]

theorem Beside.self (s : State) : Beside s.io.port (s.setPort []) s :=
  ⟨rfl, [], s.io.port, s.io.reads, rfl, by simp, setPort_eq_afterAccesses (pre := []) rfl s.io.port s⟩

/-- An update that does not look at DROP, the port and the reads. -/
theorem Beside.map {es : List PortEvent} {u s : State} (h : Beside es u s) (f : State → State)
    (hport : (f u).io.port = u.io.port := by rfl)
    (hf : ∀ pre post reads, f (u.afterAccesses pre post reads) = (f u).afterAccesses pre post reads := by
      intros; rfl) : Beside es (f u) (f s) := by
  obtain ⟨hp, pre, post, reads, rfl, hpre, rfl⟩ := h
  exact ⟨hport.trans hp, pre, post, reads, rfl, hpre, hf pre post reads⟩

theorem Beside.goto {es : List PortEvent} {u s : State} (h : Beside es u s) {l : Label} :
    Beside es (u.goto l) (s.goto l) := h.map (State.goto l)

theorem Follows.bind {es : List PortEvent} {r q : Except State State} {f g : State → Except State State}
    (h : Follows es r q) (hf : ∀ u s, Beside es u s → Follows es (f s) (g u)) : Follows es (r >>= f) (q >>= g) := by
  cases h with
  | running h => exact hf _ _ h
  | stopped h => exact .stopped h
  | cut h q => exact .cut h _

theorem Follows.ite {es : List PortEvent} {c d : Prop} [Decidable c] [Decidable d] {r r' q q' : Except State State}
    (hcd : c ↔ d) (h : Follows es r q) (h' : Follows es r' q') :
    Follows es (if c then r else r') (if d then q else q') := by
  by_cases hc : c
  · rwa [if_pos hc, if_pos (hcd.1 hc)]
  · rwa [if_neg hc, if_neg (mt hcd.2 hc)]

variable {es : List PortEvent} {u s : State}

/-! The operations. -/

theorem serve_follows (h : Beside es u s) : Follows es (serve s) (serve u) := by
  rw [serve_quiet h.quiet]
  obtain ⟨hp, pre, post, reads, rfl, hpre, rfl⟩ := h
  obtain ⟨pre', post', reads', he, hpre', hok⟩ | ⟨hmem, v, hv⟩ := serveList_cases post (u.afterAccesses pre post reads)
  · subst he
    rw [serve, show (u.afterAccesses pre (pre' ++ post') reads).io.port = pre' ++ post' from rfl, hok]
    refine .running ⟨hp, pre ++ pre', post', reads', by simp, by simp [hpre, hpre'], ?_⟩
    simp only [State.afterAccesses, List.any_append, ← Bool.or_assoc]; rfl
  · rw [serve, show (u.afterAccesses pre post reads).io.port = post from rfl, hv]
    exact .cut ⟨List.mem_append_right _ hmem, v, rfl⟩ _

theorem raise_follows (h : Beside es u s) (e : ErrCode) (who : Idx) : Follows es (raise e who s) (raise e who u) :=
  (serve_follows h).bind fun _ _ h => .stopped (h.map (State.endWith e who))

theorem complete_follows (h : Beside es u s) : Follows es (complete s) (complete u) :=
  (serve_follows h).bind fun _ _ h => .running (h.map State.succeed)

theorem perform_afterAccesses (m : MicroOp) (pre post : List PortEvent) (reads : List (RegIdx × Word)) (u : State) :
    (u.afterAccesses pre post reads).perform m = (u.perform m).afterAccesses pre post reads := by
  cases m with
  | sampleAck | sampleBit =>
    simp only [State.perform, State.takeSample, State.envUsed, State.sampled, State.envNext, State.afterAccesses,
      State.withHost]
    cases u.io.env <;> simp <;> rfl
  | _ => rfl

theorem Beside.perform (h : Beside es u s) (m : MicroOp) : Beside es (u.perform m).nextUop (s.perform m).nextUop :=
  h.map (fun s => (s.perform m).nextUop) (perform_port m u) fun _ _ _ =>
    congrArg State.nextUop (perform_afterAccesses m _ _ _ u)

theorem runOp_follows (h : Beside es u s) (m : MicroOp) : Follows es (runOp m s) (runOp m u) := by
  refine (serve_follows h).bind fun u s h => ?_
  cases m with
  | wait d =>
    refine (serve_follows (h.map (State.setDly d.counts))).bind fun u s h => .running ?_
    exact (h.map (State.setDly 0)).perform _
  | _ => exact .running (h.perform _)

theorem runOps_follows (h : Beside es u s) (ms : List MicroOp) : Follows es (runOps ms s) (runOps ms u) := by
  induction ms generalizing u s with
  | nil => exact .running h
  | cons m ms ih => exact (runOp_follows h m).bind fun _ _ h => ih h

theorem bitsFrom_follows (h : Beside es u s) (body : Nat → List MicroOp) (head n : Nat) :
    Follows es (bitsFrom body head n s) (bitsFrom body head n u) := by
  induction n generalizing u s with
  | zero => exact runOps_follows h _
  | succ n ih => exact (runOps_follows h _).bind fun _ _ h => ih (h.map (State.atBit _ _))

theorem Beside.pos_eq (h : Beside es u s) : s.pos = u.pos := by
  obtain ⟨_, _, _, _, _, _, rfl⟩ := h; rfl

theorem Beside.path_eq (h : Beside es u s) : s.path = u.path := by
  obtain ⟨_, _, _, _, _, _, rfl⟩ := h; rfl

theorem Beside.devs_eq (h : Beside es u s) : s.devs = u.devs := by
  obtain ⟨_, _, _, _, _, _, rfl⟩ := h; rfl

theorem forBits_follows (h : Beside es u s) (body : Nat → List MicroOp) :
    Follows es (forBits body s) (forBits body u) := by
  rw [forBits, forBits, h.pos_eq]
  exact bitsFrom_follows (h.map (State.atBit _ _)) _ _ _

/-! The primitives. -/

theorem busWrite_follows (h : Beside es u s) (b : Byte) : Follows es (busWrite b s) (busWrite b u) :=
  (forBits_follows (h.map (State.setShreg b)) _).bind fun _ _ h => .running (h.map (State.logWire _))

theorem busWriteLatch_follows (h : Beside es u s) (b : Byte) (dev : Idx) :
    Follows es (busWriteLatch b dev s) (busWriteLatch b dev u) :=
  (forBits_follows (h.map (State.setShreg b)) _).bind fun _ _ h => .running (h.map (State.logWire _))

theorem busCheckAck_follows (h : Beside es u s) (who : Idx) :
    Follows es (busCheckAck who s) (busCheckAck who u) :=
  (runOps_follows h _).bind fun _ _ h =>
    .ite (by rw [h.path_eq]) (raise_follows (h.map (State.logWire _)) _ _) (.running (h.map (State.logWire _)))

theorem busRead_follows (h : Beside es u s) (ack : Bool) : Follows es (busRead ack s) (busRead ack u) :=
  (runOps_follows h _).bind fun _ _ h => (forBits_follows h _).bind fun _ _ h =>
    (runOps_follows (h.map (fun s => s.withRdata s.path.shreg)) _).bind fun _ _ h =>
    .running (h.map (fun s => s.logWire [.gotByte s.path.shreg ack]))

theorem busStop_follows (h : Beside es u s) : Follows es (busStop s) (busStop u) := runOps_follows h _

theorem busStart_follows (h : Beside es u s) (who : Idx) (addr : BusAddr) (rd : Bool) :
    Follows es (busStart who addr rd s) (busStart who addr rd u) :=
  (runOps_follows h _).bind fun _ _ h => (busWrite_follows h _).bind fun _ _ h => busCheckAck_follows h who

/-! The step tables. -/

theorem channelWrite_follows (h : Beside es u s) (d k : Idx) (v : ChanValue) :
    Follows es (channelWrite d k v s) (channelWrite d k v u) := by
  have start : Follows es (busStart d (vget s.devs.addr d) false ((s.setCwRet s.pos.mpc).goto (.cw 1)))
      (busStart d (vget u.devs.addr d) false ((u.setCwRet u.pos.mpc).goto (.cw 1))) :=
    h.devs_eq ▸ busStart_follows (h.map (fun s => (s.setCwRet s.pos.mpc).goto (.cw 1))) d _ _
  exact start.bind fun _ _ h => (busWrite_follows h.goto _).bind fun _ _ h =>
    (busCheckAck_follows h.goto d).bind fun _ _ h => (busWrite_follows h.goto _).bind fun _ _ h =>
    (busCheckAck_follows h.goto d).bind fun _ _ h => (busWrite_follows h.goto _).bind fun _ _ h =>
    (busCheckAck_follows h.goto d).bind fun _ _ h => (busStop_follows h.goto).bind fun _ _ h =>
    (serve_follows h.goto).bind fun _ _ h => .running (h.map (fun s => (s.setCache d k v).goto s.pos.cwRet))

theorem setchSteps_follows (h : Beside es u s) (dev : Idx) (ch : BitVec 4) (value : BitVec 16) :
    Follows es (setchSteps dev ch value s) (setchSteps dev ch value u) := by
  refine .ite (by simp [setchRejects, h.devs_eq]) (raise_follows h.goto _ _) ?_
  refine (serve_follows h.goto.goto).bind fun _ _ h => ?_
  exact channelWrite_follows (h.map fun s =>
    (s.setOperands dev (ch.setWidth 2) (value.setWidth 12) (vget s.devs.addr dev)).goto (.sc 2)) _ _ _

theorem latch_follows (h : Beside es u s) (d : Idx) (v : Bool) : Follows es (latch d v s) (latch d v u) :=
  runOps_follows h _

theorem discover_follows (h : Beside es u s) (dev : Idx) : Follows es (discover dev s) (discover dev u) := by
  refine (busStart_follows h.goto dev _ _).bind fun _ _ h => (busWriteLatch_follows h.goto _ _).bind fun _ _ h =>
    (busCheckAck_follows h.goto dev).bind fun _ _ h => (busStart_follows h.goto dev _ _).bind fun _ _ h =>
    (busRead_follows h.goto _).bind fun _ _ h => ?_
  refine (busStop_follows (h.map (fun s => (s.setRb s.path.shreg).goto (.di 7)))).bind fun _ _ h => ?_
  exact latch_follows h.goto _ _

theorem validate_follows (h : Beside es u s) (c : Config.CheckBits) (dev : Idx) :
    Follows es (validate c dev s) (validate c dev u) := by
  refine .ite (by simp [h.path_eq]) ?_ (raise_follows h.goto _ _)
  exact (serve_follows h.goto).bind fun _ _ h => .running (h.map (fun s => s.setCurA (copyA s.path.rb)))

theorem readdress_follows (h : Beside es u s) (dev : Idx) (sel : Selector) :
    Follows es (readdress dev sel s) (readdress dev sel u) := by
  have start : Follows es (busStart dev (deviceAddr s.path.curA) false (s.goto (.di 11)))
      (busStart dev (deviceAddr u.path.curA) false (u.goto (.di 11))) :=
    h.path_eq ▸ busStart_follows h.goto dev _ _
  refine start.bind fun u s h => ?_
  have first : Follows es (busWriteLatch (readdressByte0 s.path.curA) dev (s.goto (.di 12)))
      (busWriteLatch (readdressByte0 u.path.curA) dev (u.goto (.di 12))) :=
    h.path_eq ▸ busWriteLatch_follows h.goto _ _
  exact first.bind fun _ _ h =>
    (busCheckAck_follows h.goto dev).bind fun _ _ h => (busWrite_follows h.goto _).bind fun _ _ h =>
    (busCheckAck_follows h.goto dev).bind fun _ _ h => (busWrite_follows h.goto _).bind fun _ _ h =>
    (busCheckAck_follows h.goto dev).bind fun _ _ h => (busStop_follows h.goto).bind fun _ _ h =>
    latch_follows h _ _

theorem readdressIfNeeded_follows (h : Beside es u s) (dev : Idx) (sel : Selector) :
    Follows es (readdressIfNeeded dev sel s) (readdressIfNeeded dev sel u) :=
  (serve_follows h.goto).bind fun _ _ h => .ite (by rw [h.path_eq]) (.running h) (readdress_follows h _ _)

theorem zeroChannel_follows (h : Beside es u s) (dev k : Idx) :
    Follows es (zeroChannel dev k s) (zeroChannel dev k u) := 
  channelWrite_follows (h.map fun s => (s.goto (.di 20)).setKloop k) dev k 0

theorem zeroChannels_follows (h : Beside es u s) (dev : Idx) :
    Follows es (zeroChannels dev s) (zeroChannels dev u) :=
  (zeroChannel_follows h dev 0).bind fun _ _ h => (zeroChannel_follows h dev 1).bind fun _ _ h =>
    (zeroChannel_follows h dev 2).bind fun _ _ h => zeroChannel_follows h dev 3

theorem commitPulse_follows (h : Beside es u s) (dev : Idx) :
    Follows es (commitPulse dev s) (commitPulse dev u) :=
  (latch_follows h.goto dev _).bind fun _ _ h => (runOps_follows h.goto _).bind fun _ _ h => latch_follows h.goto dev _

theorem constructDevice_follows (h : Beside es u s) (c : Config.CheckBits) (dev : Idx) (sel : Selector) :
    Follows es (constructDevice c dev sel s) (constructDevice c dev sel u) :=
  (latch_follows h.goto dev _).bind fun _ _ h => (discover_follows h dev).bind fun _ _ h =>
    (validate_follows h c dev).bind fun _ _ h => (readdressIfNeeded_follows h dev sel).bind fun _ _ h =>
    (serve_follows h.goto).bind fun _ _ h =>
    (zeroChannels_follows (h.map (State.setAddr dev (deviceAddr sel))) dev).bind fun _ _ h =>
    (commitPulse_follows h dev).bind fun _ _ h => (serve_follows h.goto).bind fun _ _ h =>
    .running (h.map (State.setValid dev true))

theorem devinitSteps_follows (h : Beside es u s) (c : Config.CheckBits) (dev : Idx) (sel : Selector) :
    Follows es (devinitSteps c dev sel s) (devinitSteps c dev sel u) :=
  .ite .rfl (raise_follows h.goto _ _)
    ((serve_follows h.goto).bind fun _ _ h =>
      constructDevice_follows (h.map (State.setValid dev false)) c dev sel)

theorem panelDevice_follows (h : Beside es u s) (c : Config.CheckBits) (d : Idx) :
    Follows es (panelDevice c d s) (panelDevice c d u) :=
  (constructDevice_follows (h.map fun s => ((s.goto (.pi 1)).setDiRet (.pi 1)).setDloop d) c d _).bind fun _ _ h =>
    .running (h.map fun s => s.goto s.pos.diRet)

theorem pinitSteps_follows (h : Beside es u s) (c : Config.CheckBits) :
    Follows es (pinitSteps c s) (pinitSteps c u) :=
  (runOps_follows h.goto _).bind fun _ _ h => (panelDevice_follows (h.map State.clearAllValid) c 0).bind fun _ _ h =>
    (panelDevice_follows h c 1).bind fun _ _ h => (panelDevice_follows h c 2).bind fun _ _ h =>
    panelDevice_follows h c 3

theorem psetSteps_follows (h : Beside es u s) (voice : BitVec 4) (role : Role) (value : BitVec 16) :
    Follows es (psetSteps voice role value s) (psetSteps voice role value u) :=
  .ite .rfl (raise_follows h.goto _ _) ((serve_follows h.goto.goto).bind fun _ _ h => setchSteps_follows h.goto _ _ _)

end Sys2Proof.Machine

/-! A command as its step table, from acceptance to its end. -/

namespace Sys2Proof.Machine

/-- The steps of a command after its acceptance (R150 to R152, R188, R190, R222, R226). -/
def commandSteps (i : Instr) (s : State) : Except State State :=
  match i with
  | .start addr rd => busStart 0 addr rd (s.goto .prim)
  | .write byte => busWrite byte (s.goto .prim)
  | .writel byte dev => busWriteLatch byte dev (s.goto .prim)
  | .read ack => busRead ack (s.goto .prim)
  | .chkack => busCheckAck 0 (s.goto .prim)
  | .stop => busStop (s.goto .prim)
  | .devinit dev sel => devinitSteps Config.params.check dev sel s
  | .setch dev ch value => setchSteps dev ch value s
  | .pinit => pinitSteps Config.params.check s
  | .pset voice role value => psetSteps voice role value s

/-- A command is accepted, runs its steps, and completes unless it has ended already (R32, R41, R245). -/
theorem exec_eq (i : Instr) (s : State) : exec i s = finish (commandSteps i (s.accept (encode i))) := by
  cases i <;> rfl

theorem commandSteps_follows {es : List PortEvent} {u s : State} (h : Beside es u s) (i : Instr) :
    Follows es (commandSteps i s) (commandSteps i u) := by
  cases i with
  | start addr rd => exact busStart_follows h.goto 0 addr rd
  | write byte => exact busWrite_follows h.goto byte
  | writel byte dev => exact busWriteLatch_follows h.goto byte dev
  | read ack => exact busRead_follows h.goto ack
  | chkack => exact busCheckAck_follows h.goto 0
  | stop => exact busStop_follows h.goto
  | devinit dev sel => exact devinitSteps_follows h _ dev sel
  | setch dev ch value => exact setchSteps_follows h dev ch value
  | pinit => exact pinitSteps_follows h _
  | pset voice role value => exact psetSteps_follows h voice role value

/-- A command with any host ends beside the command with the port left alone, or at a reset. -/
theorem exec_beside (i : Instr) (s : State) :
    ∃ t u, exec i s = .next t ∧ exec i (s.setPort []) = .next u ∧ (Beside s.io.port u t ∨ Cut s.io.port t) := by
  have run : Follows s.io.port ((commandSteps i (s.accept (encode i))).bind complete)
      ((commandSteps i ((s.setPort []).accept (encode i))).bind complete) :=
    (commandSteps_follows (Beside.self (s.accept (encode i))) i).bind fun _ _ h => complete_follows h
  refine ⟨_, _, exec_eq i s, exec_eq i _, ?_⟩
  revert run
  generalize (commandSteps i _).bind complete = r, (commandSteps i _).bind complete = q
  intro run
  cases run with
  | running h => exact .inl h
  | stopped h => exact .inl h
  | cut h => exact .inr h

/-- The same for a host that does not reset: the command ends beside the one with the port left alone. -/
theorem exec_beside_of_noReset {s : State} (h : s.noReset = true) (i : Instr) :
    ∃ t u, exec i s = .next t ∧ exec i (s.setPort []) = .next u ∧ Beside s.io.port u t := by
  obtain ⟨t, u, ht, hu, hb | ⟨hr, -⟩⟩ := exec_beside i s
  · exact ⟨t, u, ht, hu, hb⟩
  · exact absurd hr ((noReset_iff s).1 h)

end Sys2Proof.Machine

namespace Sys2Proof

open Machine

/-- Settles O14: the command follows the one with the port left alone, and the host's accesses change DROP, the
port and the record of reads only. -/
theorem runningCommandIsUndisturbed : Obligations.RunningCommandIsUndisturbed := by
  intro i s hs
  obtain ⟨t, u, ht, hu, -, pre, post, reads, -, -, rfl⟩ := exec_beside_of_noReset hs i
  exact ⟨_, u, ht, hu, rfl, rfl, rfl, rfl, rfl, rfl, rfl, rfl, rfl, rfl⟩

end Sys2Proof

/-! The register port and reset (R31 to R38, R44, R46). -/

namespace Sys2Proof.Machine

/-! What each register reads as. -/

theorem regRead_reserved (s : State) (idx : RegIdx) (env : Bool) (h : (5 ≤ idx ∧ idx ≤ 7) ∨ (12 ≤ idx ∧ idx ≤ 15)) :
    s.regRead idx env = 0 := by
  have high : ¬ 16 ≤ idx := by bv_omega
  have device : ¬ (8 ≤ idx ∧ idx < 12) := by bv_omega
  rw [State.regRead, if_neg high, if_neg device, if_neg (by bv_omega), if_neg (by bv_omega), if_neg (by bv_omega),
    if_neg (by bv_omega)]

theorem regRead_device (s : State) (d : Idx) (env : Bool) : s.regRead (8 + d.setWidth 5) env = s.devWord d := by
  have index : (8 + d.setWidth 5).extractLsb' 0 2 = d := by revert d; decide
  have high : ¬ 16 ≤ 8 + d.setWidth 5 := by revert d; decide
  have device : 8 ≤ 8 + d.setWidth 5 ∧ 8 + d.setWidth 5 < 12 := by revert d; decide
  rw [State.regRead, if_neg high, if_pos device, index]

theorem regRead_cache (s : State) (d k : Idx) (env : Bool) :
    s.regRead (16 + 4 * d.setWidth 5 + k.setWidth 5) env = s.cacheWord d k := by
  have high : 16 ≤ 16 + 4 * d.setWidth 5 + k.setWidth 5 := by revert d k; decide
  have device : (16 + 4 * d.setWidth 5 + k.setWidth 5).extractLsb' 2 2 = d := by revert d k; decide
  have channel : (16 + 4 * d.setWidth 5 + k.setWidth 5).extractLsb' 0 2 = k := by revert d k; decide
  rw [State.regRead, if_pos high, device, channel]

theorem nibble_getLsbD (v : Vector Bool 4) (d : Idx) : (nibble v).getLsbD d.toNat = vget v d := by
  have hd : d = 0 ∨ d = 1 ∨ d = 2 ∨ d = 3 := by revert d; decide
  unfold nibble
  rcases hd with rfl | rfl | rfl | rfl <;>
    generalize vget v 3 = a, vget v 2 = b, vget v 1 = c, vget v 0 = d <;> revert a b c d <;> decide

/-! The fields of STATUS and of LINES, from bit 0 up. -/

theorem statusWord_flags (s : State) :
    s.statusWord.getLsbD 0 = s.status.busy ∧ s.statusWord.getLsbD 1 = s.status.done ∧
    s.statusWord.getLsbD 7 = s.status.drop ∧ s.statusWord.getLsbD 8 = s.busIdle := by
  unfold State.statusWord
  simp only [BitVec.getLsbD_append]
  simp

theorem statusWord_err (s : State) : s.statusWord.extractLsb' 2 3 = s.status.err.code := by
  unfold State.statusWord
  rw [BitVec.extractLsb'_append_eq_of_le (by decide), BitVec.extractLsb'_append_eq_of_le (by decide)]
  exact BitVec.extractLsb'_append_eq_right

theorem statusWord_errDev (s : State) : s.statusWord.extractLsb' 5 2 = s.status.errDev := by
  unfold State.statusWord
  rw [BitVec.extractLsb'_append_eq_of_le (by decide), BitVec.extractLsb'_append_eq_of_le (by decide),
    BitVec.extractLsb'_append_eq_of_le (by decide)]
  exact BitVec.extractLsb'_append_eq_right

theorem statusWord_valid (s : State) (d : Idx) : s.statusWord.getLsbD (9 + d.toNat) = vget s.devs.valid d := by
  rw [← nibble_getLsbD]
  unfold State.statusWord
  simp only [BitVec.getLsbD_append]
  have hd := d.isLt
  simp [Nat.add_comm 9, hd]

theorem statusWord_high (s : State) : s.statusWord.extractLsb' 13 19 = 0 := by
  unfold State.statusWord
  rw [BitVec.extractLsb'_append_eq_of_le (by decide), BitVec.extractLsb'_append_eq_of_le (by decide),
    BitVec.extractLsb'_append_eq_of_le (by decide), BitVec.extractLsb'_append_eq_of_le (by decide),
    BitVec.extractLsb'_append_eq_of_le (by decide), BitVec.extractLsb'_append_eq_of_le (by decide)]
  exact BitVec.extractLsb'_append_eq_left

theorem linesWord_bus (s : State) (env : Bool) :
    (s.linesWord env).getLsbD 0 = s.pins.scl ∧ (s.linesWord env).getLsbD 1 = s.pins.sda ∧
    (s.linesWord env).getLsbD 2 = (s.pins.sda && env) ∧ (s.linesWord env).getLsbD 3 = false := by
  unfold State.linesWord
  simp only [BitVec.getLsbD_append]
  simp [State.sdaIn]

theorem linesWord_latch (s : State) (env : Bool) (d : Idx) :
    (s.linesWord env).getLsbD (4 + d.toNat) = vget s.pins.ldac d := by
  rw [← nibble_getLsbD]
  unfold State.linesWord
  simp only [BitVec.getLsbD_append]
  have hd := d.isLt
  simp [Nat.add_comm 4, hd]

theorem linesWord_high (s : State) (env : Bool) : (s.linesWord env).extractLsb' 8 24 = 0 := by
  unfold State.linesWord
  rw [BitVec.extractLsb'_append_eq_of_le (by decide), BitVec.extractLsb'_append_eq_of_le (by decide),
    BitVec.extractLsb'_append_eq_of_le (by decide), BitVec.extractLsb'_append_eq_of_le (by decide)]
  exact BitVec.extractLsb'_append_eq_left

theorem devWord_fields (s : State) (d : Idx) :
    (s.devWord d).extractLsb' 0 7 = vget s.devs.addr d ∧ (s.devWord d).getLsbD 7 = vget s.devs.valid d ∧
    (s.devWord d).extractLsb' 8 24 = 0 := by
  unfold State.devWord
  refine ⟨BitVec.extractLsb'_append_eq_right, ?_, ?_⟩
  · simp only [BitVec.getLsbD_append]
    simp
  · rw [BitVec.extractLsb'_append_eq_of_le (by decide)]
    exact BitVec.extractLsb'_append_eq_left

/-! A step at each access of the host. -/

theorem step_idle {s : State} (hb : s.status.busy = false) : step s = idleStep s := by simp [step, hb]

theorem step_read {s : State} {idx : RegIdx} {env : Bool} {es : List PortEvent} (hp : s.io.port = .read idx env :: es) :
    step s = .next ((s.setPort es).portRead idx env) := by
  cases hb : s.status.busy
  · rw [step_idle hb, idleStep, hp]
  · rw [step_busy hb, busyStep, hp]

theorem step_rst {s : State} {es : List PortEvent} (hp : s.io.port = .rst :: es) :
    step s = .next (s.setPort es).hardReset := by
  cases hb : s.status.busy
  · rw [step_idle hb, idleStep, hp]
  · rw [step_busy hb, busyStep, hp]

theorem step_otherWrite {s : State} {idx : RegIdx} {w : Word} {es : List PortEvent}
    (hp : s.io.port = .write idx w :: es) (hi : idx ≠ 0) : step s = .next (s.setPort es) := by
  cases hb : s.status.busy
  · rw [step_idle hb, idleStep, hp]
    exact if_neg hi
  · rw [step_busy hb, busyStep, hp]
    exact congrArg Host.Outcome.next (if_neg hi)

/-- The registers of a reset are those of `State.reset`. -/
theorem hardReset_isReset (s : State) : s.hardReset.IsReset := by
  have reset : State.reset.IsReset := by decide
  exact reset

end Sys2Proof.Machine

namespace Sys2Proof

open Machine

/-- Settles O11: each index of the map reads one word, whose fields are those of its table. -/
theorem registerMapReads : Obligations.RegisterMapReads := by
  intro s env
  obtain ⟨busy, done, drop, idle⟩ := statusWord_flags s
  obtain ⟨scl, sda, sdaIn, gap⟩ := linesWord_bus s env
  refine ⟨rfl,
    ⟨busy, done, statusWord_err s, statusWord_errDev s, drop, idle, statusWord_valid s, statusWord_high s⟩,
    (BitVec.setWidth_eq_append (by decide)).symm,
    ⟨BitVec.extractLsb'_append_eq_right, BitVec.extractLsb'_append_eq_left⟩,
    ⟨scl, sda, sdaIn, gap, linesWord_latch s env, linesWord_high s env⟩, fun d => ?_, fun d k => ?_,
    fun idx h => regRead_reserved s idx env h⟩
  · rw [regRead_device]
    exact devWord_fields s d
  · rw [regRead_cache]
    exact (BitVec.setWidth_eq_append (by decide)).symm

/-- Settles O7: in a state with BUSY = 0 a CMD write that decodes runs its command. -/
theorem stepRunsTheWrittenCommand : Obligations.StepRunsTheWrittenCommand := by
  intro s w es i hb hp hw
  simp only [step_idle hb, idleStep, hp, if_true, runCommand, hw]

/-- Settles O9: the fields of acceptance, and the write that the host's turn or a step drops. -/
theorem cmdWriteIsAcceptedOrDropped : Obligations.CmdWriteIsAcceptedOrDropped := by
  refine ⟨fun s w => ⟨rfl, rfl, rfl, rfl, rfl⟩, fun s w es hp => ⟨fun hb => ?_, fun hq => ?_⟩, fun _ _ => rfl⟩
  · rw [step_busy hb, busyStep, hp]
    rfl
  · have rest := serve_quiet ((quiet_of_port (t := (s.setPort es).busyWrite 0) rfl).trans hq)
    rw [serve, hp, serveList, ← serveList_setPort es es]
    exact rest

/-- Settles O10: a read is recorded and a write of another index is passed over, between commands and inside one. -/
theorem readsAndOtherWritesHaveNoEffect : Obligations.ReadsAndOtherWritesHaveNoEffect := by
  refine ⟨fun s es idx env hp => ⟨step_read hp, ?_⟩, fun s es idx w hp hi => ⟨step_otherWrite hp hi, ?_⟩,
    regRead_reserved⟩
  · rintro rfl
    rw [serve, hp]
    rfl
  · rintro rfl
    rw [serve, hp, serveList, State.busyWrite, if_neg hi, serveList]

/-- Settles O12: a reset at a step and at the host's turn is `State.hardReset`. -/
theorem resetValues : Obligations.ResetValues :=
  ⟨hardReset_isReset .reset, fun s es hp => ⟨⟨_, step_rst hp, hardReset_isReset _⟩,
    (s.setPort es).hardReset, by rw [serve, hp, serveList], hardReset_isReset _⟩⟩

/-- Settles O41: no command runs after a reset and no device is valid. -/
theorem resetIsInOrder : Obligations.ResetIsInOrder := by
  unfold Obligations.ResetIsInOrder
  decide

end Sys2Proof

/-! What a command leaves as it was, with the port left alone (R24, R35, R37, R38, R137). -/

namespace Sys2Proof.Machine

/-- The running command has come from `s` to `t` with the port left alone: only latches of `moves` have changed
their level, RDATA has changed only if the command reads, and the per-device registers are `devs`. -/
structure Within (moves : Idx → Prop) (reads : Prop) (devs : Devices) (s t : State) : Prop where
  quiet : t.quiet = true
  status : t.status = s.status
  devs : t.devs = devs
  boundary : s.atBoundary = true → t.atBoundary = true
  dly : s.path.dly = 0 → t.path.dly = 0
  latch : ∀ d, ¬ moves d → vget t.pins.ldac d = vget s.pins.ldac d
  rdata : ¬ reads → t.rdata = s.rdata

/-- A part of a command that runs on within these bounds, or ends with an error `e` of which `ends` allows the
per-device registers. -/
def Runs (moves : Idx → Prop) (reads : Prop) (devs : Devices) (ends : ErrCode → Devices → Prop) (s : State) :
    Except State State → Prop :=
  Post (Within moves reads devs s) fun t =>
    ∃ v e who c, Within moves reads c s v ∧ ends e c ∧ e ≠ .ok ∧ t = v.endWith e who

section

variable {moves : Idx → Prop} {reads : Prop} {ends : ErrCode → Devices → Prop} {c c' : Devices} {s v : State}

theorem Runs.bind {r : Except State State} {f : State → Except State State} (h : Runs moves reads c ends s r)
    (hf : ∀ v, Within moves reads c s v → Runs moves reads c' ends s (f v)) : Runs moves reads c' ends s (r >>= f) :=
  Post.bind h hf

theorem Runs.ite {p : Prop} [Decidable p] {r r' : Except State State} (h : p → Runs moves reads c ends s r)
    (h' : ¬ p → Runs moves reads c ends s r') : Runs moves reads c ends s (if p then r else r') := by
  split
  · exact h ‹_›
  · exact h' ‹_›

/-- An update of registers that these bounds do not speak of. -/
theorem Within.map (h : Within moves reads c s v) (f : State → State) (port : (f v).io.port = v.io.port := by rfl)
    (status : (f v).status = v.status := by rfl) (devs : (f v).devs = v.devs := by rfl)
    (pins : (f v).pins = v.pins := by rfl) (dly : (f v).path.dly = v.path.dly := by rfl)
    (rdata : (f v).rdata = v.rdata := by rfl) : Within moves reads c s (f v) where
  quiet := (quiet_of_port port).trans h.quiet
  status := status.trans h.status
  devs := devs.trans h.devs
  boundary hs := by rw [State.atBoundary, pins]; exact h.boundary hs
  dly hs := dly.trans (h.dly hs)
  latch d hd := by rw [pins]; exact h.latch d hd
  rdata hr := rdata.trans (h.rdata hr)

theorem Within.goto (h : Within moves reads c s v) {l : Label} : Within moves reads c s (v.goto l) := h.map _

/-- An update of the per-device registers alone. -/
theorem Within.mapDevs (h : Within moves reads c s v) (f : Devices → Devices) :
    Within moves reads (f c) s (v.withDevs (f v.devs)) :=
  ⟨h.quiet, h.status, congrArg f h.devs, h.boundary, h.dly, h.latch, h.rdata⟩

theorem Within.refl {s : State} (h : s.quiet = true) : Within moves reads s.devs s s :=
  ⟨h, rfl, rfl, id, id, fun _ _ => rfl, fun _ => rfl⟩

theorem raise_runs (h : Within moves reads c s v) {e : ErrCode} (he : ends e c) (hne : e ≠ .ok) (who : Idx) :
    Runs moves reads c' ends s (raise e who v) := by
  rw [raise_quiet h.quiet]
  exact ⟨v, e, who, c, h, he, hne, rfl⟩

theorem serve_runs (h : Within moves reads c s v) : Runs moves reads c ends s (serve v) := by
  rw [serve_quiet h.quiet]
  exact h

/-! The primitives. -/

/-- The lines after a primitive are at one level and its waits are done; it moves no other register of `Within`. -/
theorem Within.afterPrim (h : Within moves reads c s v) {t : State} (level : t.atBoundary = true)
    (port : t.io.port = v.io.port := by rfl) (status : t.status = v.status := by rfl)
    (devs : t.devs = v.devs := by rfl) (dly : t.path.dly = 0 := by rfl)
    (latch : ∀ d, ¬ moves d → vget t.pins.ldac d = vget v.pins.ldac d := by exact fun _ _ => rfl)
    (rdata : ¬ reads → t.rdata = v.rdata := by exact fun _ => rfl) : Within moves reads c s t where
  quiet := (quiet_of_port port).trans h.quiet
  status := status.trans h.status
  devs := devs.trans h.devs
  boundary _ := level
  dly _ := dly
  latch d hd := (latch d hd).trans (h.latch d hd)
  rdata hr := (rdata hr).trans (h.rdata hr)

theorem busWrite_runs (h : Within moves reads c s v) (b : Byte) : Runs moves reads c ends s (busWrite b v) := by
  rw [busWrite_quiet h.quiet]
  exact h.afterPrim rfl

theorem busWriteLatch_runs (h : Within moves reads c s v) (b : Byte) {dev : Idx} (hm : moves dev) :
    Runs moves reads c ends s (busWriteLatch b dev v) := by
  rw [busWriteLatch_quiet h.quiet]
  exact h.afterPrim rfl (latch := fun d hd => vget_vset_ne _ _ fun e => hd (e ▸ hm))

theorem busCheckAck_runs (h : Within moves reads c s v) (he : ends .noAck c) (who : Idx) :
    Runs moves reads c ends s (busCheckAck who v) := by
  rw [busCheckAck_quiet h.quiet]
  split
  · exact ⟨_, _, _, c, h.afterPrim rfl, he, by decide, rfl⟩
  · exact h.afterPrim rfl

theorem busStart_runs (h : Within moves reads c s v) (he : ends .noAck c) (who : Idx) (addr : BusAddr) (rd : Bool) :
    Runs moves reads c ends s (busStart who addr rd v) := by
  rw [busStart_quiet h.quiet]
  split
  · exact ⟨_, _, _, c, h.afterPrim rfl, he, by decide, rfl⟩
  · exact h.afterPrim rfl

theorem busRead_runs (h : Within moves reads c s v) (hr : reads) (ack : Bool) :
    Runs moves reads c ends s (busRead ack v) := by
  rw [busRead_quiet h.quiet]
  exact h.afterPrim rfl (rdata := fun n => absurd hr n)

theorem busStop_runs (h : Within moves reads c s v) : Runs moves reads c ends s (busStop v) := by
  rw [busStop_quiet h.quiet]
  exact h.afterPrim rfl

theorem latch_runs (h : Within moves reads c s v) {dev : Idx} (hm : moves dev) (b : Bool) :
    Runs moves reads c ends s (latch dev b v) := by
  rw [latch_quiet h.quiet]
  exact ⟨h.quiet, h.status, h.devs, h.boundary, h.dly,
    fun d hd => (vget_vset_ne _ _ fun e : dev = d => hd (e ▸ hm)).trans (h.latch d hd), h.rdata⟩

/-! The step tables. -/

theorem channelWrite_runs (h : Within moves reads c s v) (he : ends .noAck c) (d k : Idx) (x : ChanValue) :
    Runs moves reads (c.withCell d k x) ends s (channelWrite d k x v) :=
  (busStart_runs (h.map fun v => (v.setCwRet v.pos.mpc).goto (.cw 1)) he d _ _).bind fun _ h =>
    (busWrite_runs h.goto _).bind fun _ h => (busCheckAck_runs h.goto he d).bind fun _ h =>
    (busWrite_runs h.goto _).bind fun _ h => (busCheckAck_runs h.goto he d).bind fun _ h =>
    (busWrite_runs h.goto _).bind fun _ h => (busCheckAck_runs h.goto he d).bind fun _ h =>
    (busStop_runs h.goto).bind fun _ h => (serve_runs h.goto).bind fun _ h =>
    (h.mapDevs fun c => c.withCell d k x).goto

theorem setchSteps_runs (h : Within moves reads c s v) (hr : ends .reject c) (he : ends .noAck c) (dev : Idx)
    (ch : BitVec 4) (value : BitVec 16) :
    Runs moves reads (c.withCell dev (ch.setWidth 2) (value.setWidth 12)) ends s (setchSteps dev ch value v) :=
  .ite (fun _ => raise_runs h.goto hr (by decide) dev) fun _ =>
    (serve_runs h.goto.goto).bind fun v h => channelWrite_runs (h.map fun v => (v.setOperands dev (ch.setWidth 2)
      (value.setWidth 12) (vget v.devs.addr dev)).goto (.sc 2)) he dev (ch.setWidth 2) (value.setWidth 12)

theorem psetSteps_runs (h : Within moves reads c s v) (hr : ends .reject c) (he : ends .noAck c) (voice : BitVec 4)
    (role : Role) (value : BitVec 16) :
    Runs moves reads (c.withCell (voice.setWidth 2) (roleChannel role) (value.setWidth 12)) ends s
      (psetSteps voice role value v) := by
  have channel : ((roleChannel role).setWidth 4).setWidth 2 = roleChannel role := by simp
  refine .ite (fun _ => raise_runs h.goto hr (by decide) 0) fun _ => (serve_runs h.goto.goto).bind fun v h => ?_
  have steps := setchSteps_runs (h.goto (l := .ps 2)) hr he (voice.setWidth 2) ((roleChannel role).setWidth 4) value
  rwa [channel] at steps

theorem discover_runs (h : Within moves reads c s v) (he : ends .noAck c) {dev : Idx} (hm : moves dev) (hr : reads) :
    Runs moves reads c ends s (discover dev v) :=
  (busStart_runs h.goto he dev _ _).bind fun _ h => (busWriteLatch_runs h.goto _ hm).bind fun _ h =>
    (busCheckAck_runs h.goto he dev).bind fun _ h => (busStart_runs h.goto he dev _ _).bind fun _ h =>
    (busRead_runs h.goto hr false).bind fun _ h =>
    (busStop_runs (h.map fun v => (v.setRb v.path.shreg).goto (.di 7))).bind fun _ h => latch_runs h.goto hm true

theorem validate_runs (h : Within moves reads c s v) (he : ends .addrMismatch c) (check : Config.CheckBits) (dev : Idx) :
    Runs moves reads c ends s (validate check dev v) :=
  .ite (fun _ => (serve_runs h.goto).bind fun _ h => h.map fun v => v.setCurA (copyA v.path.rb))
    fun _ => raise_runs h.goto he (by decide) dev

theorem readdress_runs (h : Within moves reads c s v) (he : ends .noAck c) {dev : Idx} (hm : moves dev)
    (sel : Selector) : Runs moves reads c ends s (readdress dev sel v) :=
  (busStart_runs h.goto he dev _ _).bind fun _ h => (busWriteLatch_runs h.goto _ hm).bind fun _ h =>
    (busCheckAck_runs h.goto he dev).bind fun _ h => (busWrite_runs h.goto _).bind fun _ h =>
    (busCheckAck_runs h.goto he dev).bind fun _ h => (busWrite_runs h.goto _).bind fun _ h =>
    (busCheckAck_runs h.goto he dev).bind fun _ h => (busStop_runs h.goto).bind fun _ h => latch_runs h hm true

theorem readdressIfNeeded_runs (h : Within moves reads c s v) (he : ends .noAck c) {dev : Idx} (hm : moves dev)
    (sel : Selector) : Runs moves reads c ends s (readdressIfNeeded dev sel v) :=
  (serve_runs h.goto).bind fun _ h => .ite (fun _ => h) fun _ => readdress_runs h he hm sel

/-- The per-device registers with one row of the cache written. -/
def Devices.withRow (c : Devices) (dev : Idx) (row : Vector ChanValue 4) : Devices :=
  { c with cache := vset c.cache dev row }

theorem withRow_withCell (c : Devices) (dev : Idx) (row : Vector ChanValue 4) (k : Idx) (x : ChanValue) :
    (c.withRow dev row).withCell dev k x = c.withRow dev (vset row k x) := by
  simp [Devices.withRow, Devices.withCell]

theorem zeroRow_eq (row : Vector ChanValue 4) : vset (vset (vset (vset row 0 0) 1 0) 2 0) 3 0 = zeroRow := by
  apply vec_ext
  intro i
  have hi : i = 0 ∨ i = 1 ∨ i = 2 ∨ i = 3 := by revert i; decide
  simp only [vget_vset, zeroRow, vget_replicate]
  rcases hi with rfl | rfl | rfl | rfl <;> rfl

theorem zeroChannels_runs (h : Within moves reads c s v) {dev : Idx} (he : ends .noAck c)
    (hrow : ∀ row, ends .noAck (c.withRow dev row)) :
    Runs moves reads (c.withRow dev zeroRow) ends s (zeroChannels dev v) := by
  have turn {c : Devices} {v : State} (h : Within moves reads c s v) (he : ends .noAck c) (k : Idx) :
      Runs moves reads (c.withCell dev k 0) ends s (zeroChannel dev k v) :=
    channelWrite_runs (h.map fun v => (v.goto (.di 20)).setKloop k) he dev k 0
  refine (turn h he 0).bind fun v h => ?_
  change Within _ _ (c.withRow dev (vset (vget c.cache dev) 0 0)) _ _ at h
  refine (turn h (hrow _) 1).bind fun v h => ?_
  rw [withRow_withCell] at h
  refine (turn h (hrow _) 2).bind fun v h => ?_
  rw [withRow_withCell] at h
  have last := turn h (hrow _) 3
  rwa [withRow_withCell, zeroRow_eq] at last

theorem commitPulse_runs (h : Within moves reads c s v) {dev : Idx} (hm : moves dev) :
    Runs moves reads c ends s (commitPulse dev v) := by
  refine (latch_runs h.goto hm false).bind fun v h => ?_
  have pause : Runs moves reads c ends s (runOps [.wait .h] (v.goto (.di 22))) := by
    rw [runOps_quiet h.goto.quiet]
    exact ⟨h.quiet, h.status, h.devs, h.boundary, fun _ => rfl, h.latch, h.rdata⟩
  exact pause.bind fun v h => latch_runs h.goto hm true

/-- The per-device registers with a device's address and its row of the cache written. -/
def Devices.rework (c : Devices) (dev : Idx) (a : BusAddr) (row : Vector ChanValue 4) : Devices :=
  { c with addr := vset c.addr dev a, cache := vset c.cache dev row }

theorem vset_vget_self {α : Type} (x : Vector α 4) (i : Idx) : vset x i (vget x i) = x := by
  apply vec_ext
  intro j
  rw [vget_vset]
  split
  · next e => rw [e]
  · rfl

theorem rework_self (c : Devices) (dev : Idx) : c.rework dev (vget c.addr dev) (vget c.cache dev) = c := by
  simp only [Devices.rework, vset_vget_self]

theorem constructDevice_runs (h : Within moves reads c s v) {dev : Idx} {sel : Selector} (hm : moves dev) (hr : reads)
    (he : ∀ e a row, e ≠ .ok → ends e (c.rework dev a row)) (check : Config.CheckBits) :
    Runs moves reads (c.constructed dev sel) ends s (constructDevice check dev sel v) := by
  have unchanged {e : ErrCode} (hne : e ≠ .ok) : ends e c := rework_self c dev ▸ he e _ _ hne
  have moved : ends .noAck { c with addr := vset c.addr dev (deviceAddr sel) } := by
    have := he .noAck (deviceAddr sel) (vget c.cache dev) (by decide)
    rwa [Devices.rework, vset_vget_self] at this
  exact (latch_runs h.goto hm true).bind fun _ h => (discover_runs h (unchanged (by decide)) hm hr).bind fun _ h =>
    (validate_runs h (unchanged (by decide)) check dev).bind fun _ h =>
    (readdressIfNeeded_runs h (unchanged (by decide)) hm sel).bind fun _ h => (serve_runs h.goto).bind fun _ h =>
    (zeroChannels_runs (h.mapDevs fun c => { c with addr := vset c.addr dev (deviceAddr sel) }) moved
      fun row => he .noAck _ row (by decide)).bind fun _ h =>
    (commitPulse_runs h hm).bind fun _ h => (serve_runs h.goto).bind fun _ h =>
    h.mapDevs fun c => { c with valid := vset c.valid dev true }

end

end Sys2Proof.Machine

/-! How a command ends, with the port left alone. -/

namespace Sys2Proof.Machine

/-- The latches a command may move (R24). -/
def movesLatch : Instr → Idx → Prop
  | .writel _ dev, d | .devinit dev _, d => d = dev
  | .pinit, _ => True
  | .start _ _, _ | .write _, _ | .read _, _ | .chkack, _ | .stop, _ | .setch _ _ _, _ | .pset _ _ _, _ => False

/-- Whether a command reads a byte from the bus (R35). -/
def readsByte : Instr → Prop
  | .read _ | .devinit _ _ | .pinit => True
  | .start _ _ | .write _ | .writel _ _ | .chkack | .stop | .setch _ _ _ | .pset _ _ _ => False

/-- A valid device is at a device address whose selector is not 0. -/
def Devices.InOrder (c : Devices) : Prop :=
  ∀ d : Idx, vget c.valid d = true → ∃ sel : Selector, sel ≠ 0 ∧ vget c.addr d = deviceAddr sel

/-- The registers of every device but `dev` are the same. -/
def Devices.AgreeExcept (dev : Idx) (c c' : Devices) : Prop :=
  ∀ d, d ≠ dev → vget c'.valid d = vget c.valid d ∧ vget c'.addr d = vget c.addr d ∧ vget c'.cache d = vget c.cache d

/-- The per-device registers `c'` that a command leaves, which found `c` and ends with the code `e`
(R37, R38, R48). -/
def leavesDevices (i : Instr) (c : Devices) (e : ErrCode) (c' : Devices) : Prop :=
  match i with
  | .start _ _ | .write _ | .writel _ _ | .read _ | .chkack | .stop => c' = c
  | .setch dev ch value => c' = if e = .ok then c.withCell dev (ch.setWidth 2) (value.setWidth 12) else c
  | .pset voice role value =>
    c' = if e = .ok then c.withCell (voice.setWidth 2) (roleChannel role) (value.setWidth 12) else c
  | .devinit dev sel =>
    (e = .ok ∧ sel ≠ 0 ∧ c' = c.constructed dev sel) ∨ (e = .reject ∧ c' = c) ∨
      (e ≠ .ok ∧ vget c'.valid dev = false ∧ c.AgreeExcept dev c')
  | .pinit => if e = .ok then c' = panelDevices else c'.InOrder

/-! The registers of a device that is constructed. -/

theorem agreeExcept_constructed (c : Devices) (dev : Idx) (sel : Selector) :
    c.AgreeExcept dev (c.constructed dev sel) :=
  fun _ hd => ⟨vget_vset_ne _ _ hd.symm, vget_vset_ne _ _ hd.symm, vget_vset_ne _ _ hd.symm⟩

theorem Devices.InOrder.of_agreeExcept {c c' : Devices} (h : c.InOrder) {dev : Idx} (ha : c.AgreeExcept dev c')
    (hdev : vget c'.valid dev = true → ∃ sel : Selector, sel ≠ 0 ∧ vget c'.addr dev = deviceAddr sel) :
    c'.InOrder := by
  intro d hd
  by_cases hdd : d = dev
  · exact hdd ▸ hdev (hdd ▸ hd)
  · obtain ⟨hvalid, haddr, -⟩ := ha d hdd
    rw [haddr]
    exact h d (hvalid ▸ hd)

theorem Devices.InOrder.constructed {c : Devices} (h : c.InOrder) (dev : Idx) {sel : Selector} (hs : sel ≠ 0) :
    (c.constructed dev sel).InOrder :=
  h.of_agreeExcept (agreeExcept_constructed c dev sel) fun _ => ⟨sel, hs, vget_vset_self _ _ _⟩

theorem Devices.InOrder.withCell {c : Devices} (h : c.InOrder) (dev k : Idx) (x : ChanValue) :
    (c.withCell dev k x).InOrder := h

/-- A device that is not valid may be at any address. -/
theorem Devices.InOrder.readdressed {c : Devices} (h : c.InOrder) {dev : Idx} (hv : vget c.valid dev = false)
    (a : BusAddr) (cache : Vector (Vector ChanValue 4) 4) :
    Devices.InOrder { c with addr := vset c.addr dev a, cache := cache } := by
  intro d hd
  have hne : dev ≠ d := fun e => by simp [← e, hv] at hd
  rw [vget_vset_ne _ _ hne]
  exact h d hd

theorem inOrder_noneValid (c : Devices) : Devices.InOrder { c with valid := Vector.replicate 4 false } := by
  intro d hd
  simp at hd

theorem idx_cases (d : Idx) : d = 0 ∨ d = 1 ∨ d = 2 ∨ d = 3 := by revert d; decide

/-- R221, R222: four constructions make the panel. -/
theorem constructed_panel (c : Devices) :
    (((c.constructed 0 (panelSelector 0)).constructed 1 (panelSelector 1)).constructed 2
      (panelSelector 2)).constructed 3 (panelSelector 3) = panelDevices := by
  simp only [Devices.constructed, panelDevices, Devices.mk.injEq]
  refine ⟨vec_ext fun d => ?_, vec_ext fun d => ?_, vec_ext fun d => ?_⟩ <;>
    simp only [vget_vset, vget_replicate] <;> rcases idx_cases d with rfl | rfl | rfl | rfl <;> rfl

/-! The commands. -/

/-- The end of a command whose steps keep within their bounds. -/
theorem Runs.ends {moves : Idx → Prop} {reads : Prop} {ends : ErrCode → Devices → Prop} {c : Devices} {s : State}
    {r : Except State State} (h : Runs moves reads c ends s r) (hok : (∃ v, r = .ok v) → ends .ok c) :
    ∃ v e who c', finish r = .next (v.endWith e who) ∧ Within moves reads c' s v ∧ ends e c' ∧
      (e = .ok → who = 0) := by
  cases r with
  | ok v =>
    have hv : Within moves reads c s v := h
    refine ⟨v.goto .idle, .ok, 0, c, ?_, hv.goto, hok ⟨v, rfl⟩, fun _ => rfl⟩
    rw [finish, run_ok_bind', complete_quiet hv.quiet, ended_ok]
  | error t =>
    obtain ⟨v, e, who, c', hv, he, hne, rfl⟩ := h
    exact ⟨v, e, who, c', rfl, hv, he, fun h => absurd h hne⟩

section

variable {c : Devices} {s v : State}

theorem devinitSteps_zero (hq : s.quiet = true) (check : Config.CheckBits) (dev : Idx) :
    devinitSteps check dev 0 s = .error ((s.goto (.di 0)).endWith .reject dev) :=
  raise_quiet (s := s.goto (.di 0)) hq .reject dev

theorem devinitSteps_runs {dev : Idx} {sel : Selector} (h : Within (movesLatch (.devinit dev sel)) True c s v)
    (check : Config.CheckBits) : Runs (movesLatch (.devinit dev sel)) True (c.constructed dev sel)
      (leavesDevices (.devinit dev sel) c) s (devinitSteps check dev sel v) := by
  refine .ite (fun _ => raise_runs h.goto (.inr (.inl ⟨rfl, rfl⟩)) (by decide) dev) fun _ => ?_
  refine (serve_runs h.goto).bind fun v h => ?_
  have built := constructDevice_runs (sel := sel) (ends := leavesDevices (.devinit dev sel) c)
    (h.mapDevs fun c => { c with valid := vset c.valid dev false }) rfl trivial
    (fun e a row he => .inr (.inr ⟨he, vget_vset_self _ _ _, fun d hd =>
      ⟨vget_vset_ne _ _ hd.symm, vget_vset_ne _ _ hd.symm, vget_vset_ne _ _ hd.symm⟩⟩)) check
  rwa [Devices.constructed, vset_vset_self] at built

theorem panelDevice_runs (h : Within (movesLatch .pinit) True c s v) (hc : c.InOrder) {d : Idx}
    (hv : vget c.valid d = false) (check : Config.CheckBits) {devs : Devices} :
    Runs (movesLatch .pinit) True (c.constructed d (panelSelector d)) (leavesDevices .pinit devs) s
      (panelDevice check d v) :=
  (constructDevice_runs (h.map fun v => ((v.goto (.pi 1)).setDiRet (.pi 1)).setDloop d) trivial trivial
    (fun e a row he => by
      rw [leavesDevices, if_neg he]
      exact hc.readdressed hv a _) check).bind fun _ h => h.goto

theorem panelSelector_ne_zero (d : Idx) : panelSelector d ≠ 0 := by revert d; decide

theorem pinitSteps_runs (h : Within (movesLatch .pinit) True c s v) (check : Config.CheckBits) :
    Runs (movesLatch .pinit) True panelDevices (leavesDevices .pinit c) s (pinitSteps check v) := by
  have raised : Runs (movesLatch .pinit) True c (leavesDevices .pinit c) s (runOps [.ldacAll] (v.goto (.pi 0))) := by
    rw [runOps_quiet h.goto.quiet]
    exact ⟨h.quiet, h.status, h.devs, h.boundary, h.dly, fun _ hd => absurd trivial hd, fun hr => absurd trivial hr⟩
  have c0 := inOrder_noneValid c
  have c1 := c0.constructed 0 (panelSelector_ne_zero 0)
  have c2 := c1.constructed 1 (panelSelector_ne_zero 1)
  have c3 := c2.constructed 2 (panelSelector_ne_zero 2)
  have built : Runs (movesLatch .pinit) True _ (leavesDevices .pinit c) s (pinitSteps check v) :=
    raised.bind fun _ h =>
    (panelDevice_runs (d := 0) (h.mapDevs fun c => { c with valid := Vector.replicate 4 false }) c0 rfl
      check).bind fun _ h =>
    (panelDevice_runs (d := 1) h c1 rfl check).bind fun _ h =>
    (panelDevice_runs (d := 2) h c2 rfl check).bind fun _ h => panelDevice_runs (d := 3) h c3 rfl check
  rwa [constructed_panel] at built

end

/-- With the port left alone, a command ends within the bounds of its latches and of RDATA, with a code and with the
per-device registers that go with it. -/
theorem exec_ends (i : Instr) {s : State} (hq : s.quiet = true) :
    ∃ v e who c, exec i s = .next (v.endWith e who) ∧
      Within (movesLatch i) (readsByte i) c (s.accept (encode i)) v ∧ leavesDevices i s.devs e c ∧
      (e = .ok → who = 0) := by
  have h : Within (movesLatch i) (readsByte i) s.devs (s.accept (encode i)) (s.accept (encode i)) :=
    .refl (s := s.accept (encode i)) hq
  rw [exec_eq]
  cases i with
  | start addr rd => exact (busStart_runs h.goto rfl 0 addr rd).ends fun _ => rfl
  | write byte => exact (busWrite_runs h.goto byte).ends fun _ => rfl
  | writel byte dev => exact (busWriteLatch_runs h.goto byte rfl).ends fun _ => rfl
  | read ack => exact (busRead_runs h.goto trivial ack).ends fun _ => rfl
  | chkack => exact (busCheckAck_runs h.goto rfl 0).ends fun _ => rfl
  | stop => exact (busStop_runs h.goto).ends fun _ => rfl
  | setch dev ch value => exact (setchSteps_runs h rfl rfl dev ch value).ends fun _ => rfl
  | pset voice role value => exact (psetSteps_runs h rfl rfl voice role value).ends fun _ => rfl
  | pinit => exact (pinitSteps_runs h _).ends fun _ => rfl
  | devinit dev sel =>
    refine (devinitSteps_runs h _).ends fun ⟨v, hv⟩ => .inl ⟨rfl, ?_, rfl⟩
    rintro rfl
    have rejected := devinitSteps_zero (s := s.accept (encode (.devinit dev 0))) hq Config.params.check dev
    exact nomatch rejected.symm.trans hv

end Sys2Proof.Machine

/-! How a command ends, whatever the host does. -/

namespace Sys2Proof.Machine

theorem Beside.pins_eq {es : List PortEvent} {u s : State} (h : Beside es u s) : s.pins = u.pins := by
  obtain ⟨_, _, _, _, _, _, rfl⟩ := h; rfl

theorem Beside.rdata_eq {es : List PortEvent} {u s : State} (h : Beside es u s) : s.rdata = u.rdata := by
  obtain ⟨_, _, _, _, _, _, rfl⟩ := h; rfl

theorem Beside.status_eq {es : List PortEvent} {u s : State} (h : Beside es u s) :
    s.status = { u.status with drop := s.status.drop } := by
  obtain ⟨_, _, _, _, _, _, rfl⟩ := h; rfl

/-- A command ends beside one that the port left alone, within the bounds of that command, unless a reset cuts it. -/
theorem exec_ends_beside (i : Instr) (s : State) :
    ∃ t, exec i s = .next t ∧ (Cut s.io.port t ∨ ∃ v e who c, Beside s.io.port (v.endWith e who) t ∧
      Within (movesLatch i) (readsByte i) c ((s.setPort []).accept (encode i)) v ∧ leavesDevices i s.devs e c ∧
      (e = .ok → who = 0)) := by
  obtain ⟨t, u, ht, hu, hend⟩ := exec_beside i s
  obtain ⟨v, e, who, c, hv, hw, hc, he⟩ := exec_ends i (s := s.setPort []) rfl
  obtain rfl : v.endWith e who = u := by rw [hv] at hu; cases hu; rfl
  exact ⟨t, ht, hend.symm.imp_right fun h => ⟨v, e, who, c, h, hw, hc, he⟩⟩

/-- The same for a host that does not reset. -/
theorem exec_ends_noReset {i : Instr} {s t : State} (hs : s.noReset = true) (ht : exec i s = .next t) :
    ∃ v e who c, Beside s.io.port (v.endWith e who) t ∧
      Within (movesLatch i) (readsByte i) c ((s.setPort []).accept (encode i)) v ∧ leavesDevices i s.devs e c ∧
      (e = .ok → who = 0) := by
  obtain ⟨t', ht', ⟨hr, -⟩ | h⟩ := exec_ends_beside i s
  · exact absurd hr ((noReset_iff s).1 hs)
  · obtain rfl : t' = t := by rw [ht] at ht'; cases ht'; rfl
    exact h

/-- DROP at the end of a command tells of the CMD writes among the accesses it used up. -/
theorem Within.drop_iff {i : Instr} {s t v : State} {e : ErrCode} {who : Idx} {c : Devices}
    (hw : Within (movesLatch i) (readsByte i) c ((s.setPort []).accept (encode i)) v)
    (h : Beside s.io.port (v.endWith e who) t) :
    ∃ pre, s.io.port = pre ++ t.io.port ∧ (t.status.drop = true ↔ ∃ w, PortEvent.write 0 w ∈ pre) := by
  obtain ⟨-, pre, post, reads, hport, -, rfl⟩ := h
  have hdrop : v.status.drop = false := by rw [hw.status]; rfl
  refine ⟨pre, hport, ?_⟩
  rw [← any_writesCmd_iff]
  simp [State.afterAccesses, State.withHost, hdrop]

/-! The state between commands (R47). -/

theorem inv_hardReset (s : State) : s.hardReset.Inv := by
  have reset : State.reset.Inv := by decide
  exact reset

theorem Within.inv_endWith {moves : Idx → Prop} {reads : Prop} {c : Devices} {s v : State} {e : ErrCode} {who : Idx}
    (h : Within moves reads c s v) (hb : s.atBoundary = true) (hd : s.path.dly = 0) (hc : c.InOrder)
    (he : e = .ok → who = 0) : (v.endWith e who).Inv :=
  ⟨rfl, rfl, h.boundary hb, h.dly hd, fun _ => rfl, he, h.devs ▸ hc⟩

theorem Beside.inv {es : List PortEvent} {u s : State} (h : Beside es u s) (hu : u.Inv) : s.Inv := by
  obtain ⟨_, _, _, _, _, _, rfl⟩ := h
  exact hu

/-- Whatever the code of its end, a command leaves the per-device registers in order. -/
theorem leavesDevices_inOrder {i : Instr} {c c' : Devices} {e : ErrCode} (h : leavesDevices i c e c') (hc : c.InOrder) :
    c'.InOrder := by
  cases i with
  | start | write | writel | read | chkack | stop => exact (h : c' = c) ▸ hc
  | setch | pset =>
    simp only [leavesDevices] at h
    subst h
    split
    exacts [hc.withCell _ _ _, hc]
  | devinit dev sel =>
    obtain ⟨-, hs, rfl⟩ | ⟨-, rfl⟩ | ⟨-, hv, ha⟩ := h
    · exact hc.constructed dev hs
    · exact hc
    · exact hc.of_agreeExcept ha fun h => by simp [hv] at h
  | pinit =>
    simp only [leavesDevices] at h
    split at h
    · subst h
      unfold Devices.InOrder
      decide
    · exact h

theorem inv_exec {i : Instr} {s t : State} (hs : s.Inv) (ht : exec i s = .next t) : t.Inv := by
  obtain ⟨-, -, hb, hd, -, -, hc⟩ := hs
  obtain ⟨t', ht', hend⟩ := exec_ends_beside i s
  obtain rfl : t' = t := by rw [ht] at ht'; cases ht'; rfl
  obtain ⟨-, v, rfl⟩ | ⟨v, e, who, c, hbeside, hw, hl, he⟩ := hend
  · exact inv_hardReset v
  · exact hbeside.inv (hw.inv_endWith hb hd (leavesDevices_inOrder hl hc) he)

/-- A word that does not decode ends beside its end with the port left alone, unless a reset cuts it. -/
theorem illegalCommand_beside (w : Word) (s : State) :
    ∃ t, illegalCommand w s = .next t ∧
      (Cut s.io.port t ∨ Beside s.io.port (((s.setPort []).accept w).endWith .illegal 0) t) := by
  refine ⟨_, rfl, ?_⟩
  have run := raise_follows (Beside.self (s.accept w)) .illegal 0
  rw [raise_quiet (s := (s.accept w).setPort []) rfl] at run
  generalize raise .illegal 0 (s.accept w) = r at run
  cases run with
  | stopped h => exact .inr h
  | cut h => exact .inl h

theorem inv_runCommand {w : Word} {s t : State} (hs : s.Inv) (ht : runCommand w s = .next t) : t.Inv := by
  unfold runCommand at ht
  split at ht
  · exact inv_exec hs ht
  · obtain ⟨-, -, hb, hd, -, -, hc⟩ := hs
    obtain ⟨t', ht', hend⟩ := illegalCommand_beside w s
    obtain rfl : t' = t := by rw [ht] at ht'; cases ht'; rfl
    obtain ⟨-, v, rfl⟩ | h := hend
    · exact inv_hardReset v
    · exact h.inv ⟨rfl, rfl, hb, hd, fun _ => rfl, nofun, hc⟩

end Sys2Proof.Machine

namespace Sys2Proof

open Machine

/-- Settles O40: an access between commands changes nothing of the invariant, and a command keeps it. -/
theorem stepKeepsTheInvariant : Obligations.StepKeepsTheInvariant := by
  intro s t hs ht
  have hbusy : s.status.busy = false := hs.1
  rw [step_idle hbusy, idleStep] at ht
  split at ht
  case h_6 i w es hp =>
    split at ht
    · exact inv_runCommand (s := s.setPort es) hs ht
    · cases ht; exact hs
  case h_4 => cases ht; exact inv_hardReset _
  all_goals cases ht; exact hs

/-- Settles O15: the accesses that the command used up are those that landed while it ran. -/
theorem dropRecordsADroppedWrite : Obligations.DropRecordsADroppedWrite := by
  intro i s
  obtain ⟨t, ht, hend⟩ := exec_ends_beside i s
  refine ⟨fun hs => ?_, fun hnone => ⟨t, ht, ?_⟩⟩
  · obtain ⟨v, e, who, c, h, hw, -⟩ := exec_ends_noReset hs ht
    obtain ⟨pre, hport, hdrop⟩ := hw.drop_iff h
    exact ⟨t, pre, ht, hport, hdrop⟩
  · obtain ⟨-, v, rfl⟩ | ⟨v, e, who, c, h, hw, -⟩ := hend
    · rfl
    · obtain ⟨pre, hport, hdrop⟩ := hw.drop_iff h
      refine Bool.eq_false_iff.2 fun hd => ?_
      obtain ⟨w, hmem⟩ := hdrop.1 hd
      exact hnone _ (hport ▸ List.mem_append_left _ hmem) w rfl

/-- Settles O39: a command ends by its completion, by an error or by a reset. -/
theorem everyCommandCompletes : Obligations.EveryCommandCompletes := by
  intro i s
  obtain ⟨t, ht, ⟨hr, v, rfl⟩ | ⟨v, e, who, c, h, -⟩⟩ := exec_ends_beside i s
  · exact ⟨_, ht, rfl, rfl, fun hs => absurd hr ((noReset_iff s).1 hs)⟩
  · exact ⟨t, ht, by rw [h.status_eq]; rfl, by rw [h.pos_eq]; rfl, fun _ => by rw [h.status_eq]; rfl⟩

/-- Settles O49: the latches that a command may move are those of its device. -/
theorem latchesBelongToTheirDevice : Obligations.LatchesBelongToTheirDevice := by
  intro i s t d hs ht hd
  obtain ⟨v, e, who, c, h, hw, -⟩ := exec_ends_noReset hs ht
  rw [h.pins_eq]
  refine hw.latch d ?_
  cases i with
  | writel | devinit => exact hd
  | pinit => exact hd.elim
  | _ => exact id

/-- Settles O51: no command but those that read a byte changes RDATA. -/
theorem rdataIsWrittenOnlyByReads : Obligations.RdataIsWrittenOnlyByReads := by
  intro i s t hs ht hi
  obtain ⟨v, e, who, c, h, hw, -⟩ := exec_ends_noReset hs ht
  rw [h.rdata_eq]
  refine hw.rdata ?_
  cases i with
  | read | devinit | pinit => exact hi.elim
  | _ => exact id

/-- Settles O50: what a command leaves in the per-device registers goes with the code of its end. -/
theorem deviceRegistersChangeOnlyByTheirCommands : Obligations.DeviceRegistersChangeOnlyByTheirCommands := by
  intro i s t hs ht
  obtain ⟨v, e, who, c, h, hw, hl, -⟩ := exec_ends_noReset hs ht
  obtain rfl : t.devs = c := h.devs_eq.trans hw.devs
  obtain rfl : t.status.err = e := by rw [h.status_eq]; rfl
  cases i with
  | devinit dev sel =>
    obtain ⟨he, -, hc⟩ | ⟨he, hc⟩ | ⟨he, hv, ha⟩ := hl
    · exact ⟨hc ▸ agreeExcept_constructed s.devs dev sel, fun _ => hc, fun h => by simp [he] at h⟩
    · exact ⟨fun d _ => by rw [hc]; exact ⟨rfl, rfl, rfl⟩, fun h => by simp [he] at h, fun h => by simp [he] at h⟩
    · exact ⟨ha, fun h => absurd h he, fun _ => hv⟩
  | pinit =>
    intro he
    rwa [leavesDevices, if_pos he] at hl
  | _ => exact hl

end Sys2Proof

/-! The word of a command decodes to it (R91, R92). -/

namespace Sys2Proof

/-- A word of a row has the row's opcode: every mask holds the opcode field (R93). -/
theorem opcodeOf_of_fits {r : OpcodeRow} {w : Word} (hr : r ∈ opcodeMap) (h : r.fits w = true) :
    opcodeOf r.pattern = opcodeOf w := by
  have masks : ∀ r ∈ opcodeMap, opcodeOf r.mask = BitVec.allOnes 4 := by decide
  have hw : w &&& r.mask = r.pattern := by simpa [OpcodeRow.fits] using h
  rw [← hw, opcodeOf, BitVec.extractLsb'_and]
  exact (congrArg _ (masks r hr)).trans BitVec.and_allOnes

/-- The rows have different opcodes, so a word decodes by the one row it fits. -/
theorem decode_of_fits {r : OpcodeRow} {w : Word} (hr : r ∈ opcodeMap) (h : r.fits w = true) :
    decode w = .ok (r.operands w) := by
  have opcodes : (opcodeMap.map fun r => opcodeOf r.pattern).Nodup := by decide
  obtain ⟨q, hq⟩ : ∃ q, opcodeMap.find? (·.fits w) = some q :=
    Option.isSome_iff_exists.1 (List.find?_isSome.2 ⟨r, hr, h⟩)
  have hmem := List.mem_of_find?_eq_some hq
  have hfits : q.fits w = true := List.find?_some (p := fun r => OpcodeRow.fits r w) hq
  have hqr : q = r := List.inj_on_of_nodup_map opcodes hmem hr
    ((opcodeOf_of_fits hmem hfits).trans (opcodeOf_of_fits hr h).symm)
  rw [decode, hq, hqr]

theorem Role.ofCode_code (r : Role) : Role.ofCode r.code = r := by cases r <;> rfl

/-- The middle field of a word. -/
theorem extractLsb'_middle {n m k : Nat} (x : BitVec n) (y : BitVec m) (z : BitVec k) :
    (x ++ y ++ z).extractLsb' k m = y := by
  rw [BitVec.extractLsb'_append_eq_of_le le_rfl, Nat.sub_self]
  exact BitVec.extractLsb'_append_eq_right

/-- The word of a command fits the row of its opcode (R93). -/
theorem fits_encode (i : Instr) : ∃ r ∈ opcodeMap, r.fits (encode i) = true ∧ r.operands (encode i) = i := by
  have row {k : Nat} {r : OpcodeRow} (hk : opcodeMap[k]? = some r) (hfits : encode i &&& r.mask = r.pattern)
      (hops : r.operands (encode i) = i) :
      ∃ r ∈ opcodeMap, r.fits (encode i) = true ∧ r.operands (encode i) = i :=
    ⟨r, List.mem_of_getElem? hk, by simpa [OpcodeRow.fits] using hfits, hops⟩
  cases i with
  | start addr rd =>
    refine row (k := 0) rfl ?_ (congrArg₂ Instr.start (extractLsb'_middle _ _ _) ?_)
    · change (0x1#4 ++ 0#20 ++ addr ++ BitVec.ofBool rd) &&& (0xF#4 ++ 0xFFFFF#20 ++ 0#7 ++ 0#1) = 0x10000000#32
      simp only [BitVec.and_append, BitVec.and_zero]
      rfl
    · exact BitVec.getLsbD_append.trans (by simp)
  | write byte =>
    refine row (k := 1) rfl ?_ (congrArg Instr.write BitVec.extractLsb'_append_eq_right)
    change (0x2#4 ++ 0#20 ++ byte) &&& (0xF#4 ++ 0xFFFFF#20 ++ 0#8) = 0x20000000#32
    simp only [BitVec.and_append, BitVec.and_zero]
    rfl
  | writel byte dev =>
    refine row (k := 2) rfl ?_ (congrArg₂ Instr.writel BitVec.extractLsb'_append_eq_right (extractLsb'_middle _ _ _))
    change (0x3#4 ++ 0#18 ++ dev ++ byte) &&& (0xF#4 ++ 0x3FFFF#18 ++ 0#2 ++ 0#8) = 0x30000000#32
    simp only [BitVec.and_append, BitVec.and_zero]
    rfl
  | read ack =>
    refine row (k := 3) rfl ?_ (congrArg Instr.read (BitVec.getLsbD_append.trans (by simp)))
    change (0x4#4 ++ 0#27 ++ BitVec.ofBool ack) &&& (0xF#4 ++ 0x7FFFFFF#27 ++ 0#1) = 0x40000000#32
    simp only [BitVec.and_append, BitVec.and_zero]
    rfl
  | chkack => exact row (k := 4) rfl rfl rfl
  | stop => exact row (k := 5) rfl rfl rfl
  | devinit dev sel =>
    refine row (k := 6) rfl ?_ (congrArg₂ Instr.devinit ?_ BitVec.extractLsb'_append_eq_right)
    · change (0x8#4 ++ 0#18 ++ dev ++ 0#5 ++ sel) &&& (0xF#4 ++ 0x3FFFF#18 ++ 0#2 ++ 0x1F#5 ++ 0#3) = 0x80000000#32
      simp only [BitVec.and_append, BitVec.and_zero]
      rfl
    · exact (BitVec.extractLsb'_append_eq_of_le (by decide)).trans (extractLsb'_middle _ _ _)
  | setch dev ch value =>
    have hdev : (encode (.setch dev ch value)).extractLsb' 20 2 = dev :=
      (BitVec.extractLsb'_append_eq_of_le (by decide)).trans (extractLsb'_middle _ _ _)
    have hch : (encode (.setch dev ch value)).extractLsb' 16 4 = ch := extractLsb'_middle _ _ _
    have hvalue : (encode (.setch dev ch value)).extractLsb' 0 16 = value := BitVec.extractLsb'_append_eq_right
    refine row (k := 7) rfl ?_ (by simp only [hdev, hch, hvalue])
    change (0x9#4 ++ 0#6 ++ dev ++ ch ++ value) &&& (0xF#4 ++ 0x3F#6 ++ 0#2 ++ 0#4 ++ 0#16) = 0x90000000#32
    simp only [BitVec.and_append, BitVec.and_zero]
    rfl
  | pinit => exact row (k := 8) rfl rfl rfl
  | pset voice role value =>
    have hvoice : (encode (.pset voice role value)).extractLsb' 20 4 = voice :=
      (BitVec.extractLsb'_append_eq_of_le (by decide)).trans
        ((BitVec.extractLsb'_append_eq_of_le (by decide)).trans (extractLsb'_middle _ _ _))
    have hrole : (encode (.pset voice role value)).extractLsb' 16 2 = role.code := extractLsb'_middle _ _ _
    have hvalue : (encode (.pset voice role value)).extractLsb' 0 16 = value := BitVec.extractLsb'_append_eq_right
    refine row (k := 9) rfl ?_ (by simp only [hvoice, hrole, hvalue, Role.ofCode_code])
    change (0xB#4 ++ 0#4 ++ voice ++ 0#2 ++ role.code ++ value) &&&
      (0xF#4 ++ 0xF#4 ++ 0#4 ++ 0x3#2 ++ 0#2 ++ 0#16) = 0xB0000000#32
    simp only [BitVec.and_append, BitVec.and_zero]
    rfl

theorem decode_encode (i : Instr) : decode (encode i) = .ok i := by
  obtain ⟨r, hr, hfits, hops⟩ := fits_encode i
  rw [decode_of_fits hr hfits, hops]

end Sys2Proof

/-! A primitive, action by action (R40). -/

namespace Sys2Proof.Machine

/-! Runs of the machine beside runs of `exec`. -/

/-- The machine follows `r` from the state `a`: where `r` still runs in `u`, `P u` holds and the machine comes to
`exit u`; where `r` has ended, the machine comes to its end. -/
def Sim (a : State) (P : State → Prop) (exit : State → State) : Except State State → Prop :=
  Post (fun u => P u ∧ Reaches a (exit u)) (Reaches a)

theorem Post.and {P Q E F : State → Prop} {r : Except State State} (h : Post P E r) (g : Post Q F r) :
    Post (fun s => P s ∧ Q s) F r := by
  cases r with
  | ok s => exact ⟨h, g⟩
  | error s => exact g

section

variable {a : State} {P Q : State → Prop} {exit exit' : State → State} {r : Except State State}

theorem Sim.bind {f : State → Except State State} (h : Sim a P exit r)
    (hf : ∀ u, P u → Sim (exit u) Q exit' (f u)) : Sim a Q exit' (r >>= f) :=
  Post.bind h fun u ⟨hp, hr⟩ => (hf u hp).mono (fun _ ⟨hq, hw⟩ => ⟨hq, hr.trans hw⟩) fun _ hw => hr.trans hw

theorem Sim.mono (h : Sim a P exit r) (hP : ∀ u, P u → Q u ∧ exit u = exit' u) : Sim a Q exit' r :=
  Post.mono h (fun u ⟨hp, hr⟩ => ⟨(hP u hp).1, (hP u hp).2 ▸ hr⟩) fun _ hr => hr

theorem Sim.ok {u : State} (hp : P u) (h : a = exit u) : Sim a P exit (.ok u) := ⟨hp, h ▸ .refl a⟩

end

/-! What micro-ops leave as it was. -/

/-- `u` is `s` some micro-ops later: the step, its operands and the per-device registers are the same. -/
def InStep (s u : State) : Prop :=
  ∃ pins drop rdata b x bit upc io, u = ({
    pins := pins
    status := { s.status with drop := drop }
    rdata := rdata
    devs := s.devs
    path := { s.path with shreg := b, smp := x }
    pos := { s.pos with bit := bit, upc := upc }
    io := io } : State)

theorem InStep.refl (s : State) : InStep s s := ⟨_, _, _, _, _, _, _, _, rfl⟩

theorem InStep.trans {s t u : State} (h : InStep s t) (g : InStep t u) : InStep s u := by
  obtain ⟨_, _, _, _, _, _, _, _, rfl⟩ := h
  obtain ⟨_, _, _, _, _, _, _, _, rfl⟩ := g
  exact ⟨_, _, _, _, _, _, _, _, rfl⟩

theorem Served.inStep {s u : State} (h : Served s u) : InStep s u := by
  obtain ⟨_, _, _, rfl⟩ := h
  exact ⟨_, _, _, _, _, _, _, _, rfl⟩

theorem perform_inStep (m : MicroOp) (s : State) : InStep s (s.perform m) := by
  refine ⟨(s.perform m).pins, s.status.drop, s.rdata, (s.perform m).path.shreg, (s.perform m).path.smp, s.pos.bit,
    s.pos.upc, (s.perform m).io, ?_⟩
  cases m <;> apply State.ext_groups <;> simp [State.perform, State.assignAllLdac]

theorem perform_pos (m : MicroOp) (s : State) : (s.perform m).pos = s.pos := by
  cases m <;> simp [State.perform, State.assignAllLdac]

theorem setDly_zero {s : State} (hd : s.path.dly = 0) : s.setDly 0 = s := by
  apply State.ext_groups <;> simp [← hd]

theorem afterOp_eq {s : State} (hd : s.path.dly = 0) (m : MicroOp) : s.afterOp m = (s.perform m).nextUop := by
  cases m with
  | wait d => rw [State.afterOp, setDly_zero hd]
  | _ => rfl

theorem afterOp_inStep {s : State} (hd : s.path.dly = 0) (m : MicroOp) : InStep s (s.afterOp m) := by
  rw [afterOp_eq hd]
  exact (perform_inStep m s).trans ⟨_, _, _, _, _, _, _, _, rfl⟩

theorem afterOp_pos (m : MicroOp) (s : State) : (s.afterOp m).pos = { s.pos with upc := s.pos.upc + 1 } := by
  cases m <;> simp [State.afterOp, perform_pos]

/-! A running command at a step that performs a primitive. -/

/-- The command `i` runs, and no wait is counted. -/
structure Running (i : Instr) (s : State) : Prop where
  busy : s.status.busy = true
  decoded : decode s.path.cmdR = .ok i
  dly : s.path.dly = 0

/-- The command `i` runs at a step that performs the primitive `p`. -/
structure AtStep (i : Instr) (p : Prim) (s : State) : Prop extends Running i s where
  label : s.pos.mpc ≠ .decode
  prim : primOf i s = some p

theorem Running.inStep {i : Instr} {s u : State} (h : Running i s) (g : InStep s u) : Running i u := by
  obtain ⟨_, _, _, _, _, _, _, _, rfl⟩ := g
  exact ⟨h.busy, h.decoded, h.dly⟩

theorem AtStep.inStep {i : Instr} {p : Prim} {s u : State} (h : AtStep i p s) (g : InStep s u) : AtStep i p u := by
  refine ⟨h.toRunning.inStep g, ?_, ?_⟩ <;> obtain ⟨_, _, _, _, _, _, _, _, rfl⟩ := g
  · exact h.label
  · exact h.prim

/-- The micro-ops of a primitive, with the loop's body for one bit. -/
def Prim.listAt (p : Prim) (bit : BitVec 3) : List MicroOp := p.before ++ p.body bit.toNat ++ p.after

theorem Prim.op_eq_head? (p : Prim) (pos : Position) : p.op pos = ((p.listAt pos.bit).drop pos.upc).head? := by
  rw [List.head?_drop]; rfl

theorem Prim.body_length (p : Prim) (n : Nat) : (p.body n).length = (p.body 0).length := by
  cases p with
  | writeLatch b dev =>
    simp only [Prim.body]
    split <;> rfl
  | _ => rfl

theorem Prim.listAt_length (p : Prim) (bit : BitVec 3) : (p.listAt bit).length = p.size := by
  simp only [Prim.listAt, Prim.size, Prim.tail, Prim.head, List.length_append, p.body_length]

theorem Prim.op_size (p : Prim) {pos : Position} (h : pos.upc = p.size) : p.op pos = none := by
  rw [p.op_eq_head?, h, ← p.listAt_length pos.bit, List.drop_length]; rfl

/-- A place at which the position just moves on. -/
def Prim.Inner (p : Prim) (upc : Nat) : Prop := upc ≠ p.size ∧ (p.head = p.tail ∨ (upc ≠ p.head ∧ upc ≠ p.tail))

section

variable {i : Instr} {p : Prim} {s u : State}

theorem settleStep_inner (h : p.Inner u.pos.upc) : settleStep i p u = u := by
  obtain ⟨hsize, hloop⟩ := h
  have stay : p.advance u = u := by
    unfold Prim.advance
    obtain h | ⟨hhead, htail⟩ := hloop
    · rw [if_pos h]
    · rw [if_neg hhead, if_neg htail, ite_self]
  simp only [settleStep, Prim.settle, stay, hsize, false_and, if_false]

/-- A segment of the primitive's micro-ops. -/
theorem runOps_sim (h : AtStep i p s) {ms rest : List MicroOp} (hne : ms ≠ [])
    (hseg : (p.listAt s.pos.bit).drop s.pos.upc = ms ++ rest)
    (hin : ∀ j, s.pos.upc < j → j < s.pos.upc + ms.length → p.Inner j) :
    Sim s (fun u => InStep s u ∧ u.pos.bit = s.pos.bit ∧ u.pos.upc = s.pos.upc + ms.length) (settleStep i p)
      (runOps ms s) := by
  induction ms generalizing s with
  | nil => exact absurd rfl hne
  | cons m ms ih =>
    have hop : p.op s.pos = some m := by rw [p.op_eq_head?, hseg]; rfl
    have first : Sim s (fun u => InStep s u ∧ u.pos.bit = s.pos.bit ∧ u.pos.upc = s.pos.upc + 1) (settleStep i p)
        (runOp m s) := by
      have reaches := runOp_reaches ⟨h.busy, h.decoded, h.label, h.prim, hop⟩ h.dly
      refine ((runOp_post m s).and reaches).mono ?_ fun _ h => h
      rintro u ⟨hu, hr⟩
      have hpos : u.pos = (s.afterOp m).pos := by obtain ⟨_, _, _, rfl⟩ := hu; rfl
      rw [afterOp_pos] at hpos
      exact ⟨⟨(afterOp_inStep h.dly m).trans hu.inStep, by rw [hpos], by rw [hpos]⟩, hr⟩
    rw [runOps_cons]
    by_cases hms : ms = []
    · subst hms
      exact first.bind fun u hu => .ok hu rfl
    · refine first.bind fun u ⟨hu, hbit, hupc⟩ => ?_
      have hlen : 0 < ms.length := List.length_pos_iff.2 hms
      rw [settleStep_inner (hupc ▸ hin _ (by omega) (by simp only [List.length_cons]; omega))]
      refine (ih (h.inStep hu) hms ?_ fun j hj hj' => hin j (by omega) (by simp only [List.length_cons]; omega)).mono ?_
      · rw [hbit, hupc, ← List.drop_drop, hseg]; rfl
      · rintro w ⟨hw, hbit', hupc'⟩
        exact ⟨⟨hu.trans hw, hbit'.trans hbit, by rw [hupc', hupc, List.length_cons]; omega⟩, rfl⟩

/-! What happens at the head and at the tail of the byte loop. -/

theorem enterLoop_inStep (p : Prim) (s : State) : InStep s (p.enterLoop s) := by
  cases p <;> exact ⟨_, _, _, _, _, _, _, _, rfl⟩

theorem leaveLoop_pos (p : Prim) (s : State) : (p.leaveLoop s).pos = s.pos := by cases p <;> rfl

theorem leaveLoop_inStep (p : Prim) (s : State) : InStep s (p.leaveLoop s) := by
  cases p <;> exact ⟨_, _, _, _, _, _, _, _, rfl⟩

theorem Prim.tail_le_size (p : Prim) : p.tail ≤ p.size := Nat.le_add_right _ _

theorem Prim.head_le_tail (p : Prim) : p.head ≤ p.tail := Nat.le_add_right _ _

theorem enterLoop_pos (hloop : p.head ≠ p.tail) (s : State) :
    (p.enterLoop s).pos = { s.pos with bit := 7, upc := p.head } := by
  cases p with
  | ops ms => exact absurd rfl hloop
  | checkAck => exact absurd rfl hloop
  | _ => rfl

theorem settleStep_head (hloop : p.head ≠ p.tail) (hupc : u.pos.upc = p.head) : settleStep i p u = p.enterLoop u := by
  have hsize : p.head ≠ p.size := by have := p.tail_le_size; have := p.head_le_tail; omega
  have enter : p.advance u = p.enterLoop u := by rw [Prim.advance, if_neg hloop, if_pos hupc]
  simp only [settleStep, Prim.settle, enter, enterLoop_pos hloop, hsize, if_false, false_and]

theorem settleStep_tail (hloop : p.head ≠ p.tail) (hupc : u.pos.upc = p.tail) (hbit : u.pos.bit ≠ 0) :
    settleStep i p u = u.atBit (u.pos.bit - 1) p.head := by
  have hsize : p.head ≠ p.size := by have := p.tail_le_size; have := p.head_le_tail; omega
  have next : p.advance u = u.atBit (u.pos.bit - 1) p.head := by
    rw [Prim.advance, if_neg hloop, if_neg (hupc ▸ Ne.symm hloop), if_pos hupc, if_neg hbit]
  simp only [settleStep, Prim.settle, next, State.atBit_pos, hsize, if_false, false_and]

theorem advance_lastTail (hloop : p.head ≠ p.tail) (hupc : u.pos.upc = p.tail) (hbit : u.pos.bit = 0) :
    p.advance u = p.leaveLoop u := by
  rw [Prim.advance, if_neg hloop, if_neg (hupc ▸ Ne.symm hloop), if_pos hupc, if_pos hbit]

theorem settleStep_lastTail (hloop : p.head ≠ p.tail) (hsize : p.tail ≠ p.size) (hupc : u.pos.upc = p.tail)
    (hbit : u.pos.bit = 0) : settleStep i p u = p.leaveLoop u := by
  simp only [settleStep, Prim.settle, advance_lastTail hloop hupc hbit, leaveLoop_pos, hupc, hsize, if_false, false_and]

theorem close_pos (p : Prim) (s : State) : (p.close s).pos = s.pos := by cases p <;> rfl

theorem close_path (p : Prim) (s : State) : (p.close s).path = s.path := by cases p <;> rfl

/-- The end of a primitive: its last token, and the next step unless its check failed. -/
theorem settleStep_of_settle {t : State} (h : p.settle u = t) (hupc : t.pos.upc = p.size) :
    settleStep i p u = if p.checks ∧ t.path.smp then t else moveOn i t := by
  simp only [settleStep, h, hupc, true_and, ite_not]

/-- The byte loop, from the bit `n` down. -/
theorem bitsFrom_sim (h : AtStep i p s) (hloop : p.head ≠ p.tail) {n : Nat} (hn : n < 8)
    (hbit : s.pos.bit = BitVec.ofNat 3 n) (hupc : s.pos.upc = p.head) :
    Sim s (fun u => InStep s u ∧ u.pos.bit = 0 ∧ u.pos.upc = p.tail) (settleStep i p)
      (bitsFrom p.body p.head n s) := by
  have body {s : State} {n : Nat} (h : AtStep i p s) (hn : n < 8) (hbit : s.pos.bit = BitVec.ofNat 3 n)
      (hupc : s.pos.upc = p.head) :
      Sim s (fun u => InStep s u ∧ u.pos.bit = BitVec.ofNat 3 n ∧ u.pos.upc = p.tail) (settleStep i p)
        (runOps (p.body n) s) := by
    have hlen : p.tail = p.head + (p.body n).length := by rw [p.body_length]; rfl
    have hbody : p.body s.pos.bit.toNat = p.body n := by
      rw [hbit, BitVec.toNat_ofNat, Nat.mod_eq_of_lt hn]
    refine (runOps_sim h (rest := p.after) ?_ ?_ ?_).mono fun u ⟨hu, hb, hc⟩ =>
      ⟨⟨hu, hb.trans hbit, by rw [hc, hupc, hlen]⟩, rfl⟩
    · intro hnil
      rw [hnil] at hlen
      exact hloop hlen.symm
    · rw [Prim.listAt, hupc, hbody, List.append_assoc, Prim.head, List.drop_left]
    · intro j hj hj'
      have := p.tail_le_size
      exact ⟨by omega, .inr ⟨by omega, by omega⟩⟩
  induction n generalizing s with
  | zero => exact body h hn hbit hupc
  | succ n ih =>
    refine (body h hn hbit hupc).bind fun u ⟨hu, hb, hc⟩ => ?_
    have hne : u.pos.bit ≠ 0 := by
      rw [hb]
      intro e
      have := congrArg BitVec.toNat e
      simp only [BitVec.toNat_ofNat, Nat.mod_eq_of_lt hn] at this
      simp at this
    have hpred : u.pos.bit - 1 = BitVec.ofNat 3 n := by rw [hb]; bv_omega
    have step : InStep s (u.atBit (BitVec.ofNat 3 n) p.head) := hu.trans ⟨_, _, _, _, _, _, _, _, rfl⟩
    rw [settleStep_tail hloop hc hne, hpred]
    exact (ih (h.inStep step) (by omega) rfl rfl).mono fun w ⟨hw, hb', hc'⟩ => ⟨⟨step.trans hw, hb', hc'⟩, rfl⟩

end

end Sys2Proof.Machine

/-! Each primitive, action by action (R138 to R150). -/

namespace Sys2Proof.Machine

/-- A primitive as the commands of `exec` call it, with the device that ERR_DEV records if its check fails. -/
def Prim.run (who : Idx) (s : State) : Prim → Except State State
  | .ops ms => runOps ms s
  | .start b => runOps condStartOps s >>= fun s => busWrite b s >>= busCheckAck who
  | .write b => busWrite b s
  | .writeLatch b dev => busWriteLatch b dev s
  | .checkAck => busCheckAck who s
  | .read ack => busRead ack s

/-! The sizes of the primitives with a byte loop. -/

@[simp] theorem head_start (b : Byte) : (Prim.start b).head = 8 := rfl
@[simp] theorem tail_start (b : Byte) : (Prim.start b).tail = 15 := rfl
@[simp] theorem size_start (b : Byte) : (Prim.start b).size = 23 := rfl
@[simp] theorem head_write (b : Byte) : (Prim.write b).head = 0 := rfl
@[simp] theorem tail_write (b : Byte) : (Prim.write b).tail = 7 := rfl
@[simp] theorem head_writeLatch (b : Byte) (dev : Idx) : (Prim.writeLatch b dev).head = 0 := rfl
@[simp] theorem tail_writeLatch (b : Byte) (dev : Idx) : (Prim.writeLatch b dev).tail = 7 := rfl
@[simp] theorem head_read (ack : Bool) : (Prim.read ack).head = 1 := rfl
@[simp] theorem tail_read (ack : Bool) : (Prim.read ack).tail = 7 := rfl
@[simp] theorem size_read (ack : Bool) : (Prim.read ack).size = 14 := rfl

/-- The position enters a primitive, and its byte loop at once if nothing stands before it. -/
def Prim.enter (p : Prim) (s : State) : State := if p.head = 0 then p.enterLoop s else s

/-- The primitive `p`, begun in `s`, has ended in `u`, and its check, if it has one, was acknowledged. -/
def Done (p : Prim) (s u : State) : Prop :=
  InStep s u ∧ u.pos.upc = p.size ∧ ¬(p.checks = true ∧ u.path.smp = true)

variable {i : Instr} {p : Prim} {s u : State}

theorem close_inStep (p : Prim) (s : State) : InStep s (p.close s) := by
  cases p <;> exact ⟨_, _, _, _, _, _, _, _, rfl⟩

theorem settle_size (hloop : p.head = p.tail ∨ p.tail < p.size) (hupc : u.pos.upc = p.size) :
    p.settle u = p.close u := by
  have stay : p.advance u = u := by
    unfold Prim.advance
    obtain h | h := hloop
    · rw [if_pos h]
    · have := p.head_le_tail
      rw [if_neg (by omega : ¬ u.pos.upc = p.head), if_neg (by omega : ¬ u.pos.upc = p.tail), ite_self]
  simp only [Prim.settle, stay, hupc, if_true]

/-- The last micro-ops of a primitive, behind its loop. -/
theorem last_sim (h : AtStep i p s) {ms : List MicroOp} (hne : ms ≠ [])
    (hseg : (p.listAt s.pos.bit).drop s.pos.upc = ms) (htail : p.head = p.tail ∨ p.tail ≤ s.pos.upc) :
    Sim s (fun u => InStep s u ∧ u.pos.upc = p.size)
      (fun u => if p.checks ∧ u.path.smp then p.close u else moveOn i (p.close u)) (runOps ms s) := by
  have hlen : s.pos.upc + ms.length = p.size := by
    have := congrArg List.length hseg
    have := List.length_pos_iff.2 hne
    rw [List.length_drop, p.listAt_length] at *
    omega
  have hpos := List.length_pos_iff.2 hne
  refine (runOps_sim h hne (rest := []) (by rw [hseg, List.append_nil]) ?_).mono ?_
  · intro j hj hj'
    have := p.head_le_tail
    exact ⟨by omega, htail.imp_right fun _ => ⟨by omega, by omega⟩⟩
  · rintro u ⟨hu, -, hupc⟩
    have hsize : u.pos.upc = p.size := hupc.trans hlen
    have hend := settle_size (htail.imp_right fun _ => by omega) hsize
    refine ⟨⟨hu, hsize⟩, ?_⟩
    rw [settleStep_of_settle hend (by rw [close_pos, hsize]), close_path]

/-- The micro-ops before the byte loop. -/
theorem before_sim (h : AtStep i p s) (hupc : s.pos.upc = 0) (hloop : p.head ≠ p.tail) (hne : p.before ≠ []) :
    Sim s (fun u => InStep s u ∧ u.pos.upc = p.head) p.enterLoop (runOps p.before s) := by
  refine (runOps_sim h hne (rest := p.body s.pos.bit.toNat ++ p.after) ?_ ?_).mono ?_
  · rw [hupc, List.drop_zero, Prim.listAt, List.append_assoc]
  · intro j hj hj'
    have hhead : p.head = p.before.length := rfl
    have := p.head_le_tail
    have := p.tail_le_size
    exact ⟨by omega, .inr ⟨by omega, by omega⟩⟩
  · rintro u ⟨hu, -, hu'⟩
    have hhead : u.pos.upc = p.head := by rw [hu', hupc, Nat.zero_add]; rfl
    exact ⟨⟨hu, hhead⟩, settleStep_head hloop hhead⟩

/-- The byte loop. -/
theorem loop_sim (h : AtStep i p s) (hloop : p.head ≠ p.tail) :
    Sim (p.enterLoop s) (fun u => InStep s u ∧ u.pos.bit = 0 ∧ u.pos.upc = p.tail) (settleStep i p)
      (bitsFrom p.body p.head 7 (p.enterLoop s)) := by
  have enter := enterLoop_inStep p s
  exact (bitsFrom_sim (h.inStep enter) hloop (by decide) (by rw [enterLoop_pos hloop]; rfl)
    (by rw [enterLoop_pos hloop])).mono fun u ⟨hu, hb, hc⟩ => ⟨⟨enter.trans hu, hb, hc⟩, rfl⟩

/-- The engine aborts a command whose check has failed. -/
theorem engineTurn_failed (h : AtStep i p u) (hupc : u.pos.upc = p.size) (hc : p.checks = true)
    (hx : u.path.smp = true) : u.engineTurn = u.endWith .noAck (failingDevice i u) := by
  simp only [State.engineTurn, h.decoded, if_neg h.label, engineAct, h.prim, p.op_size hupc, hc, hx, and_self, if_true]

theorem failingDevice_inStep (h : InStep s u) : failingDevice i u = failingDevice i s := by
  obtain ⟨_, _, _, _, _, _, _, _, rfl⟩ := h
  rfl

/-- The acknowledge check at the end of a primitive (R144, R245). -/
theorem busCheckAck_sim (h : AtStep i p s) (hc : p.checks = true)
    (hseg : (p.listAt s.pos.bit).drop s.pos.upc = checkAckOps) (htail : p.head = p.tail ∨ p.tail ≤ s.pos.upc) :
    Sim s (Done p s) (moveOn i) (busCheckAck (failingDevice i s) s) := by
  refine (last_sim h (by decide) hseg htail).bind fun u ⟨hu, hupc⟩ => ?_
  have close : p.close u = u.logWire [if u.path.smp then .nack else .ack] := by
    cases p with
    | start b => rfl
    | checkAck => rfl
    | _ => exact absurd hc Bool.false_ne_true
  cases hx : u.path.smp with
  | false =>
    simp only [hx, Bool.false_eq_true, and_false, if_false] at close ⊢
    refine .ok ⟨hu.trans (close ▸ close_inStep p u), hupc, ?_⟩ (congrArg _ close)
    simp [hx]
  | true =>
    simp only [hx, hc, and_self, if_true] at close ⊢
    rw [close]
    have step : InStep s (u.logWire [.nack]) := hu.trans (close ▸ close_inStep p u)
    refine Post.bind ((serve_post _).and (serve_reaches (h.inStep step).busy)) fun w ⟨hw, hr⟩ => ?_
    have hwstep := step.trans hw.inStep
    obtain ⟨_, _, _, rfl⟩ := hw
    rw [engineTurn_failed (h.inStep hwstep) hupc hc hx, failingDevice_inStep hwstep] at hr
    exact hr

/-! The six primitives. -/

theorem ops_sim {ms : List MicroOp} (h : AtStep i (.ops ms) s) (hupc : s.pos.upc = 0) (hne : ms ≠ []) :
    Sim s (Done (.ops ms) s) (moveOn i) (runOps ms s) := by
  refine (last_sim h hne (by simp [hupc, Prim.listAt, Prim.before, Prim.body, Prim.after]) (.inl rfl)).mono ?_
  rintro u ⟨hu, hsize⟩
  exact ⟨⟨hu, hsize, by simp [Prim.checks]⟩, rfl⟩

/-- A byte that is the whole of its primitive. -/
theorem byte_sim (h : AtStep i p s) {b : Byte} (hloop : p.head ≠ p.tail) (hsize : p.tail = p.size)
    (hc : p.checks = false) (hleave : ∀ u, p.close (p.leaveLoop u) = u.logWire [.wrote b]) :
    Sim (p.enterLoop s) (Done p s) (moveOn i)
      (bitsFrom p.body p.head 7 (p.enterLoop s) >>= fun s => .ok (s.logWire [.wrote b])) := by
  refine (loop_sim h hloop).bind fun u ⟨hu, hbit, hupc⟩ => ?_
  have hend : p.settle u = u.logWire [.wrote b] := by
    simp only [Prim.settle, advance_lastTail hloop hupc hbit, leaveLoop_pos, hupc, hsize, if_true, hleave]
  rw [settleStep_of_settle hend (hupc.trans hsize)]
  refine .ok ⟨hu.trans ⟨_, _, _, _, _, _, _, _, rfl⟩, hupc.trans hsize, by simp [hc]⟩ ?_
  rw [if_neg (by simp [hc])]

theorem busWrite_sim {b : Byte} (h : AtStep i (.write b) s) (hupc : s.pos.upc = 0) :
    Sim ((Prim.write b).enterLoop s) (Done (.write b) s) (moveOn i) (busWrite b s) := by
  have run := byte_sim h (b := b) (by simp) rfl rfl fun _ => rfl
  rw [busWrite, forBits, State.setShreg_pos, hupc]
  exact run

theorem busWriteLatch_sim {b : Byte} {dev : Idx} (h : AtStep i (.writeLatch b dev) s) (hupc : s.pos.upc = 0) :
    Sim ((Prim.writeLatch b dev).enterLoop s) (Done (.writeLatch b dev) s) (moveOn i) (busWriteLatch b dev s) := by
  have run := byte_sim h (b := b) (by simp) rfl rfl fun _ => rfl
  rw [busWriteLatch, forBits, State.setShreg_pos, hupc]
  exact run

theorem checkAck_sim (h : AtStep i .checkAck s) (hupc : s.pos.upc = 0) :
    Sim s (Done .checkAck s) (moveOn i) (busCheckAck (failingDevice i s) s) :=
  busCheckAck_sim h rfl (by rw [hupc]; rfl) (.inl rfl)

theorem start_sim {b : Byte} (h : AtStep i (.start b) s) (hupc : s.pos.upc = 0) :
    Sim s (Done (.start b) s) (moveOn i) ((Prim.start b).run (failingDevice i s) s) := by
  have addressByte {u : State} (h : AtStep i (.start b) u) (hupc : u.pos.upc = (Prim.start b).head) :
      Sim ((Prim.start b).enterLoop u) (fun w => InStep u w ∧ w.pos.upc = (Prim.start b).tail) id (busWrite b u) := by
    rw [busWrite, forBits, State.setShreg_pos, hupc]
    refine (loop_sim h (by simp)).bind fun w ⟨hw, hbit, hw'⟩ => ?_
    rw [settleStep_lastTail (by simp) (by simp) hw' hbit]
    exact .ok ⟨hw.trans (leaveLoop_inStep (.start b) w), hw'⟩ rfl
  have wrote : Sim s (fun w => InStep s w ∧ w.pos.upc = (Prim.start b).tail) id
      (runOps condStartOps s >>= busWrite b) :=
    (before_sim h hupc (by simp) (List.cons_ne_nil _ _)).bind fun u ⟨hu, hu'⟩ =>
      (addressByte (h.inStep hu) hu').mono fun w ⟨hw, hw'⟩ => ⟨⟨hu.trans hw, hw'⟩, rfl⟩
  rw [Prim.run, ← run_bind_assoc]
  refine wrote.bind fun u ⟨hu, hu'⟩ => ?_
  rw [← failingDevice_inStep hu]
  refine (busCheckAck_sim (h.inStep hu) rfl ?_ (.inr hu'.ge)).mono fun w ⟨hw, hw'⟩ => ⟨⟨hu.trans hw, hw'⟩, rfl⟩
  rw [hu']
  rfl

theorem busRead_sim {ack : Bool} (h : AtStep i (.read ack) s) (hupc : s.pos.upc = 0) :
    Sim s (Done (.read ack) s) (moveOn i) (busRead ack s) := by
  refine (before_sim h hupc (by simp) (List.cons_ne_nil _ _)).bind fun u ⟨hu, hu'⟩ => ?_
  rw [forBits, hu']
  refine Sim.bind (loop_sim (h.inStep hu) (by simp)) fun w ⟨hw, hbit, hw'⟩ => ?_
  rw [settleStep_lastTail (by simp) (by simp) hw' hbit]
  have step := (hu.trans hw).trans (leaveLoop_inStep (.read ack) w)
  refine Sim.bind (last_sim (h.inStep step) (ms := masterAckCell ack) (by simp [masterAckCell]) ?_ (.inr hw'.ge))
    fun x ⟨hx, hx'⟩ => ?_
  · rw [leaveLoop_pos, hw']
    rfl
  · exact .ok ⟨(step.trans hx).trans (close_inStep (.read ack) x), hx', by simp [Prim.checks]⟩ rfl

/-- A primitive of `exec` is actions of the engine, after which the position moves on. -/
theorem prim_sim (h : AtStep i p s) (hupc : s.pos.upc = 0) (hne : p ≠ .ops []) :
    Sim (p.enter s) (Done p s) (moveOn i) (p.run (failingDevice i s) s) := by
  cases p with
  | ops ms =>
    have hms : ms ≠ [] := fun e => hne (e ▸ rfl)
    rw [Prim.enter, if_neg (by simpa [Prim.head, Prim.before] using hms)]
    exact ops_sim h hupc hms
  | start b => exact start_sim h hupc
  | write b => exact busWrite_sim h hupc
  | writeLatch b dev => exact busWriteLatch_sim h hupc
  | checkAck => exact checkAck_sim h hupc
  | read ack => exact busRead_sim h hupc

end Sys2Proof.Machine

/-! The step tables, action by action (R186, R188, R190, R222, R226). -/

namespace Sys2Proof.Machine

variable {i : Instr} {p : Prim} {s s₀ u : State} {P : State → Prop} {exit : State → State}

/-! One step. -/

theorem Running.goto (h : Running i s) (l : Label) : Running i (s.goto l) := ⟨h.busy, h.decoded, h.dly⟩

/-- A step that performs a primitive. -/
theorem step_sim {l : Label} (h : Running i s) (hl : l ≠ .decode) (hp : primOf i (s.goto l) = some p)
    (hne : p ≠ .ops []) :
    Sim (beginStep i l s) (Done p (s.goto l)) (moveOn i) (p.run (failingDevice i (s.goto l)) (s.goto l)) := by
  have enter : beginStep i l s = p.enter (s.goto l) := by simp only [beginStep, hp, Prim.enter]
  rw [enter]
  exact prim_sim ⟨h.goto l, hl, hp⟩ rfl hne

theorem InStep.mpc_eq (h : InStep s u) : u.pos.mpc = s.pos.mpc := by
  obtain ⟨_, _, _, _, _, _, _, _, rfl⟩ := h; rfl

theorem InStep.devs_eq (h : InStep s u) : u.devs = s.devs := by
  obtain ⟨_, _, _, _, _, _, _, _, rfl⟩ := h; rfl

theorem Served.path_eq (h : Served s u) : u.path = s.path := by
  obtain ⟨_, _, _, rfl⟩ := h; rfl

theorem InStep.primOf_eq (h : InStep s u) : primOf i u = primOf i s := by
  obtain ⟨_, _, _, _, _, _, _, _, rfl⟩ := h; rfl

theorem engineTurn_update (h : Running i u) (hl : u.pos.mpc ≠ .decode) (hp : primOf i u = none) :
    u.engineTurn = updateStep i u := by
  simp only [State.engineTurn, h.decoded, if_neg hl, engineAct, hp]

/-- A step that only updates registers. -/
theorem update_sim (h : Running i s) (hl : s.pos.mpc ≠ .decode) (hp : primOf i s = none) :
    Sim s (Served s) (updateStep i) (serve s) := by
  refine Post.mono ((serve_post s).and (serve_reaches h.busy)) ?_ fun _ h => h
  rintro u ⟨hu, hr⟩
  have turn := engineTurn_update (h.inStep hu.inStep) (hu.inStep.mpc_eq ▸ hl) (hu.inStep.primOf_eq.trans hp)
  exact ⟨hu, turn ▸ hr⟩

/-- A step at which the command ends with an error. -/
theorem raise_sim (h : Running i s) (hl : s.pos.mpc ≠ .decode) (hp : primOf i s = none) {e : ErrCode} {who : Idx}
    (hend : ∀ u, Served s u → updateStep i u = u.endWith e who) : Sim s P exit (raise e who s) :=
  Post.bind (update_sim h hl hp) fun u ⟨hu, hr⟩ => hend u hu ▸ hr

/-- The end of a command. -/
theorem complete_reaches (hb : s.status.busy = true) (hend : ∀ u, Served s u → u.engineTurn = u.succeed) :
    Post (Reaches s) (Reaches s) (complete s) :=
  Post.bind ((serve_post s).and (serve_reaches hb)) fun u ⟨hu, hr⟩ => hend u hu ▸ hr

/-- The end of a command behind a step that only updates registers. -/
theorem complete_update (h : Running i s) (hl : s.pos.mpc ≠ .decode) (hp : primOf i s = none)
    (hend : ∀ u, Served s u → updateStep i u = u.succeed) : Post (Reaches s) (Reaches s) (complete s) :=
  complete_reaches h.busy fun u hu => (engineTurn_update (h.inStep hu.inStep) (hu.inStep.mpc_eq ▸ hl)
    (hu.inStep.primOf_eq.trans hp)).trans (hend u hu)

/-! The channel write (R186). -/

/-- `u` is `s` some steps later: the position has moved on, the operands are the same. -/
def Later (s u : State) : Prop := ∃ l, InStep (s.goto l) u

theorem Later.refl (s : State) : Later s s := ⟨s.pos.mpc, _, _, _, _, _, _, s.pos.upc, _, rfl⟩

theorem Later.trans {s t u : State} (h : Later s t) (g : Later t u) : Later s u := by
  obtain ⟨_, _, _, _, _, _, _, _, _, rfl⟩ := h
  obtain ⟨l, _, _, _, _, _, _, _, _, rfl⟩ := g
  exact ⟨l, _, _, _, _, _, _, _, _, rfl⟩

/-- The command `i` runs, in a channel write of `x` to channel `k` of device `d`. -/
structure AtChannel (i : Instr) (d k : Idx) (x : ChanValue) (s : State) : Prop extends Running i s where
  channel : channelOf i s = (d, k, x)

theorem AtChannel.later {d k : Idx} {x : ChanValue} (h : AtChannel i d k x s) (g : Later s u) :
    AtChannel i d k x u := by
  obtain ⟨_, _, _, _, _, _, _, _, _, rfl⟩ := g
  exact ⟨⟨h.busy, h.decoded, h.dly⟩, h.channel⟩

theorem cw_sim {d k : Idx} {x : ChanValue} (h : AtChannel i d k x s₀) (g : Later s₀ s) (n : Fin 10)
    (hp : channelPrim d k x s n.val = some p) (hne : p ≠ .ops []) :
    Sim (beginStep i (.cw n) s) (Later s₀) (beginStep i (.cw (n + 1))) (p.run d (s.goto (.cw n))) := by
  have hch : channelOf i (s.goto (.cw n)) = (d, k, x) := (h.later g).channel
  have hprim : primOf i (s.goto (.cw n)) = some p := by
    simp only [primOf, State.goto_pos, hch]
    exact hp
  have hwho : failingDevice i (s.goto (.cw n)) = d := by simp only [failingDevice, State.goto_pos, hch]
  have run := step_sim (h.later g).toRunning (by simp) hprim hne
  rw [hwho] at run
  refine run.mono fun u ⟨hu, _⟩ => ⟨g.trans ⟨_, hu⟩, ?_⟩
  obtain ⟨_, _, _, _, _, _, _, _, rfl⟩ := hu
  rfl

/-- The channel write returns to the label it was called at, and a zeroing write goes on with the next one. -/
theorem channelWrite_sim {d k : Idx} {x : ChanValue} (h : AtChannel i d k x (s.setCwRet s.pos.mpc)) :
    Sim (beginChannelWrite i s)
      (fun u => ∃ v, Later (s.setCwRet s.pos.mpc) v ∧ u = (v.setCache d k x).goto s.pos.mpc)
      (fun u => if u.pos.mpc = .di 20 then afterZeroing i u else u) (channelWrite d k x s) := by
  refine (cw_sim h (.refl _) 1 rfl (by simp)).bind fun v g => ?_
  refine (cw_sim h g 2 rfl (by simp)).bind fun v g => ?_
  refine (cw_sim h g 3 rfl (by simp)).bind fun v g => ?_
  refine (cw_sim h g 4 rfl (by simp)).bind fun v g => ?_
  refine (cw_sim h g 5 rfl (by simp)).bind fun v g => ?_
  refine (cw_sim h g 6 rfl (by simp)).bind fun v g => ?_
  refine (cw_sim h g 7 rfl (by simp)).bind fun v g => ?_
  refine (cw_sim h g 8 rfl (by simp [stopOps])).bind fun v g => ?_
  have run := (h.later g).toRunning
  refine (update_sim (run.goto (.cw 9)) (by simp) rfl).bind fun w hw => ?_
  have hlater : Later (s.setCwRet s.pos.mpc) w := g.trans ⟨_, hw.inStep⟩
  have hret : w.pos.cwRet = s.pos.mpc := by
    obtain ⟨_, _, _, _, _, _, _, _, _, rfl⟩ := hlater
    rfl
  refine .ok ⟨w, hlater, by rw [hret]⟩ ?_
  have hlabel : w.pos.mpc = .cw 9 := hw.inStep.mpc_eq
  simp only [updateStep, hlabel, (h.later hlater).channel]

/-! SETCH and PSET (R188, R226). -/

/-- SC2 has ended: the command is at its last label. -/
theorem setchSteps_sim (h : Running i s) {dev : Idx} {ch : BitVec 4} {value : BitVec 16}
    (hops : setchOperands i = some (dev, ch, value)) :
    Sim (beginSetch dev ch value s) (fun u => Running i u ∧ u.pos.mpc = .sc 2) id (setchSteps dev ch value s) := by
  by_cases hr : setchRejects dev ch value (s.goto (.sc 0)) = true
  · have hbegin : beginSetch dev ch value s = s.goto (.sc 0) := if_pos hr
    have hsteps : setchSteps dev ch value s = raise .reject dev (s.goto (.sc 0)) := if_pos hr
    rw [hbegin, hsteps]
    refine raise_sim (h.goto _) (by simp) rfl fun u hu => ?_
    have hlabel : u.pos.mpc = .sc 0 := hu.inStep.mpc_eq
    have hreject : setchRejects dev ch value u = true := by
      rwa [setchRejects, hu.inStep.devs_eq]
    simp [updateStep, hlabel, hops, hreject]
  · have hbegin : beginSetch dev ch value s = s.goto (.sc 1) := if_neg hr
    have hsteps : setchSteps dev ch value s = _ := if_neg hr
    rw [hbegin, hsteps]
    refine (update_sim (h.goto (.sc 1)) (by simp) rfl).bind fun u hu => ?_
    have hlabel : u.pos.mpc = .sc 1 := hu.inStep.mpc_eq
    have hrun := (h.goto (.sc 1)).inStep hu.inStep
    have hexit : updateStep i u = beginChannelWrite i
        ((u.setOperands dev (ch.setWidth 2) (value.setWidth 12) (vget u.devs.addr dev)).goto (.sc 2)) := by
      simp [updateStep, hlabel, hops]
    rw [hexit]
    have hchannel : AtChannel i dev (ch.setWidth 2) (value.setWidth 12)
        (((u.setOperands dev (ch.setWidth 2) (value.setWidth 12) (vget u.devs.addr dev)).goto (.sc 2)).setCwRet
          (.sc 2)) :=
      ⟨⟨hrun.busy, hrun.decoded, hrun.dly⟩, rfl⟩
    refine Sim.mono (channelWrite_sim hchannel) ?_
    rintro w ⟨v, hv, rfl⟩
    obtain ⟨_, _, _, _, _, _, _, _, _, rfl⟩ := hv
    exact ⟨⟨⟨hrun.busy, hrun.decoded, hrun.dly⟩, rfl⟩, rfl⟩

/-! DEVINIT (R190). -/

/-- The command `i` runs DEVINIT's steps for device `dev` and selector `sel`; `valid` are the valid devices. -/
structure AtDevice (i : Instr) (dev : Idx) (sel : Selector) (valid : Vector Bool 4) (s : State) : Prop
    extends Running i s where
  device : deviceOf i s = dev
  selector : selectorOf i s = sel
  valid : s.devs.valid = valid
  ret : i = .pinit → s.pos.diRet = .pi 1

section

variable {dev : Idx} {sel : Selector} {valid : Vector Bool 4}

theorem AtDevice.later (h : AtDevice i dev sel valid s) (g : Later s u) : AtDevice i dev sel valid u := by
  obtain ⟨_, _, _, _, _, _, _, _, _, rfl⟩ := g
  exact ⟨⟨h.busy, h.decoded, h.dly⟩, h.device, h.selector, h.valid, h.ret⟩

theorem AtDevice.goto (h : AtDevice i dev sel valid s) (l : Label) : AtDevice i dev sel valid (s.goto l) :=
  h.later ⟨l, .refl _⟩

theorem AtDevice.setRb (h : AtDevice i dev sel valid s) (b : Byte) : AtDevice i dev sel valid (s.setRb b) :=
  ⟨⟨h.busy, h.decoded, h.dly⟩, h.device, h.selector, h.valid, h.ret⟩

theorem AtDevice.setCurA (h : AtDevice i dev sel valid s) (a : Selector) : AtDevice i dev sel valid (s.setCurA a) :=
  ⟨⟨h.busy, h.decoded, h.dly⟩, h.device, h.selector, h.valid, h.ret⟩

theorem AtDevice.setAddr (h : AtDevice i dev sel valid s) (d : Idx) (a : BusAddr) :
    AtDevice i dev sel valid (s.setAddr d a) :=
  ⟨⟨h.busy, h.decoded, h.dly⟩, h.device, h.selector, h.valid, h.ret⟩

/-- A step of DEVINIT that performs a primitive. -/
theorem di_prim_sim (h : AtDevice i dev sel valid s) (n : Fin 25) (hp : devinitPrim dev sel s n.val = some p)
    (hne : p ≠ .ops []) :
    Sim (beginStep i (.di n) s) (AtDevice i dev sel valid)
      (fun u => beginStep i (.di (n + 1)) (if n = 6 then u.setRb u.path.shreg else u))
      (p.run dev (s.goto (.di n))) := by
  have hprim : primOf i (s.goto (.di n)) = some p := by
    simp only [primOf, State.goto_pos, (h.goto (.di n)).device, (h.goto (.di n)).selector]
    exact hp
  have hwho : failingDevice i (s.goto (.di n)) = dev := (h.goto (.di n)).device
  have run := step_sim h.toRunning (by simp) hprim hne
  rw [hwho] at run
  refine run.mono fun u ⟨hu, _⟩ => ⟨h.later ⟨_, hu⟩, ?_⟩
  have hlabel : u.pos.mpc = .di n := hu.mpc_eq
  simp only [moveOn, hlabel]

/-- The same for every step but the read. -/
theorem di_sim (h : AtDevice i dev sel valid s) (n : Fin 25) (hp : devinitPrim dev sel s n.val = some p)
    (hne : p ≠ .ops []) (hn : n ≠ 6 := by decide) :
    Sim (beginStep i (.di n) s) (AtDevice i dev sel valid) (beginStep i (.di (n + 1))) (p.run dev (s.goto (.di n))) :=
  (di_prim_sim h n hp hne).mono fun u hu => ⟨hu, by rw [if_neg hn]⟩

/-- A step of DEVINIT that only updates registers. -/
theorem di_update_sim (h : AtDevice i dev sel valid s) (n : Fin 25) {m : Nat} (hm : n.val = m := by rfl)
    (hp : ∀ s, devinitPrim dev sel s m = none := by exact fun _ => rfl) :
    Sim (s.goto (.di n)) (fun u => Served (s.goto (.di n)) u ∧ AtDevice i dev sel valid u)
      (fun u => devinitUpdate i u m) (serve (s.goto (.di n))) := by
  have hprim : primOf i (s.goto (.di n)) = none := by
    simp only [primOf, State.goto_pos, (h.goto (.di n)).device, (h.goto (.di n)).selector]
    exact hm ▸ hp _
  refine (update_sim (h.goto (.di n)).toRunning (by simp) hprim).mono fun u hu => ⟨⟨hu, h.later ⟨_, hu.inStep⟩⟩, ?_⟩
  have hlabel : u.pos.mpc = .di n := hu.inStep.mpc_eq
  simp only [updateStep, hlabel, hm]

theorem discover_sim (h : AtDevice i dev sel valid s) :
    Sim (beginStep i (.di 2) s) (AtDevice i dev sel valid) (State.goto (.di 9)) (discover dev s) := by
  refine (di_sim h 2 rfl (by simp)).bind fun u h => ?_
  refine (di_sim h 3 rfl (by simp)).bind fun u h => ?_
  refine (di_sim h 4 rfl (by simp)).bind fun u h => ?_
  refine (di_sim h 5 rfl (by simp)).bind fun u h => ?_
  refine (di_prim_sim h 6 rfl (by simp)).bind fun u h => ?_
  refine (di_sim (h.setRb u.path.shreg) 7 rfl (by simp [stopOps])).bind fun u h => ?_
  exact di_sim h 8 rfl (by simp)

theorem devinitUpdate_nine (u : State) : devinitUpdate i u 9 =
    if readbackValid u.path.rb then (u.setCurA (copyA u.path.rb)).goto (.di 10)
    else u.endWith .addrMismatch (deviceOf i u) := rfl

theorem validate_sim (h : AtDevice i dev sel valid s) :
    Sim (s.goto (.di 9)) (AtDevice i dev sel valid) (State.goto (.di 10)) (validate Config.params.check dev s) := by
  by_cases hv : readbackValid s.path.rb = true
  · have hsteps : validate Config.params.check dev s = _ := if_pos hv
    rw [hsteps]
    refine (di_update_sim h 9 (m := 9)).bind fun u ⟨hu, h⟩ => .ok (h.setCurA _) ?_
    rw [devinitUpdate_nine, if_pos (by rwa [hu.path_eq])]
  · have hsteps : validate Config.params.check dev s = _ := if_neg hv
    rw [hsteps]
    refine Post.bind (di_update_sim h 9 (m := 9)) fun u ⟨⟨hu, h⟩, hr⟩ => ?_
    have hend : devinitUpdate i u 9 = u.endWith .addrMismatch dev := by
      rw [devinitUpdate_nine, if_neg (by rwa [hu.path_eq]), h.device]
    exact hend ▸ hr

theorem readdress_sim (h : AtDevice i dev sel valid s) :
    Sim (beginStep i (.di 11) s) (AtDevice i dev sel valid) (State.goto (.di 19)) (readdress dev sel s) := by
  refine (di_sim h 11 rfl (by simp)).bind fun u h => ?_
  refine (di_sim h 12 rfl (by simp)).bind fun u h => ?_
  refine (di_sim h 13 rfl (by simp)).bind fun u h => ?_
  refine (di_sim h 14 rfl (by simp)).bind fun u h => ?_
  refine (di_sim h 15 rfl (by simp)).bind fun u h => ?_
  refine (di_sim h 16 rfl (by simp)).bind fun u h => ?_
  refine (di_sim h 17 rfl (by simp)).bind fun u h => ?_
  have last := di_sim h 18 rfl (by simp [stopOps])
  have split : (Prim.ops (stopOps ++ [.ldac dev true])).run dev (u.goto (.di 18)) =
      busStop (u.goto (.di 18)) >>= latch dev true := runOps_append _ _ _
  exact split ▸ last

theorem devinitUpdate_ten (u : State) : devinitUpdate i u 10 =
    if u.path.curA = selectorOf i u then u.goto (.di 19) else beginStep i (.di 11) u := rfl

theorem readdressIfNeeded_sim (h : AtDevice i dev sel valid s) :
    Sim (s.goto (.di 10)) (AtDevice i dev sel valid) (State.goto (.di 19)) (readdressIfNeeded dev sel s) := by
  refine (di_update_sim h 10 (m := 10)).bind fun u ⟨_, h⟩ => ?_
  rw [devinitUpdate_ten, h.selector]
  by_cases hs : u.path.curA = sel
  · rw [if_pos hs, if_pos hs]
    exact .ok h rfl
  · rw [if_neg hs, if_neg hs]
    exact readdress_sim h

/-- One turn of DI20. -/
theorem zeroChannel_sim (h : AtDevice i dev sel valid s) (k : Idx) :
    Sim (beginZeroing i k s) (fun u => AtDevice i dev sel valid u ∧ u.path.kloop = k) (afterZeroing i)
      (zeroChannel dev k s) := by
  have hchannel : AtChannel i dev k 0 (((s.goto (.di 20)).setKloop k).setCwRet (.di 20)) := by
    refine ⟨⟨h.busy, h.decoded, h.dly⟩, ?_⟩
    have hdev : deviceOf i (((s.goto (.di 20)).setKloop k).setCwRet (.di 20)) = dev := h.device
    simp [channelOf, hdev]
  refine Sim.mono (channelWrite_sim hchannel) ?_
  rintro u ⟨v, hv, rfl⟩
  obtain ⟨_, _, _, _, _, _, _, _, _, rfl⟩ := hv
  exact ⟨⟨⟨⟨h.busy, h.decoded, h.dly⟩, h.device, h.selector, h.valid, h.ret⟩, rfl⟩, rfl⟩

theorem zeroChannels_sim (h : AtDevice i dev sel valid s) :
    Sim (beginZeroing i 0 s) (AtDevice i dev sel valid) (beginStep i (.di 21)) (zeroChannels dev s) := by
  have next {u : State} {k : Idx} (hk : u.path.kloop = k) (h3 : k ≠ 3) :
      afterZeroing i u = beginZeroing i (k + 1) u := by
    rw [afterZeroing, hk, if_neg h3]
  refine (zeroChannel_sim h 0).bind fun u ⟨h, hk⟩ => ?_
  rw [next hk (by decide)]
  refine (zeroChannel_sim h 1).bind fun u ⟨h, hk⟩ => ?_
  rw [next hk (by decide)]
  refine (zeroChannel_sim h 2).bind fun u ⟨h, hk⟩ => ?_
  rw [next hk (by decide)]
  refine (zeroChannel_sim h 3).mono fun u ⟨h, hk⟩ => ⟨h, ?_⟩
  rw [afterZeroing, if_pos hk]

theorem commitPulse_sim (h : AtDevice i dev sel valid s) :
    Sim (beginStep i (.di 21) s) (AtDevice i dev sel valid) (State.goto (.di 24)) (commitPulse dev s) := by
  refine (di_sim h 21 rfl (by simp)).bind fun u h => ?_
  refine (di_sim h 22 rfl (by simp)).bind fun u h => ?_
  exact di_sim h 23 rfl (by simp)

/-- Where the machine goes when a device is constructed: in PINIT to the next device (R222). -/
def afterDevice (i : Instr) (dev : Idx) (u : State) : State :=
  if i = .pinit then
    if dev = 3 then u.goto u.pos.diRet else beginPanelDevice i (dev + 1) (u.goto u.pos.diRet)
  else u

theorem devinitUpdate_last (h : AtDevice i dev sel valid u) (hv : vget valid dev = false) :
    devinitUpdate i u 24 = afterDevice i dev (u.setValid dev true) := by
  have hval : vget u.devs.valid dev = false := by rw [h.valid, hv]
  simp only [devinitUpdate, h.device, hval, Bool.false_eq_true, if_false]
  rfl

/-- DI1 to DI24. -/
theorem constructDevice_sim (h : AtDevice i dev sel valid s) (hv : vget valid dev = false) :
    Sim (beginStep i (.di 1) s) (fun u => AtDevice i dev sel (vset valid dev true) u ∧ u.pos.mpc = .di 24)
      (afterDevice i dev) (constructDevice Config.params.check dev sel s) := by
  refine (di_sim h 1 rfl (by simp)).bind fun u h => ?_
  refine (discover_sim h).bind fun u h => (validate_sim h).bind fun u h => (readdressIfNeeded_sim h).bind fun u h => ?_
  refine (di_update_sim h 19 (m := 19)).bind fun u ⟨_, h⟩ => ?_
  have hzero : devinitUpdate i u 19 = beginZeroing i 0 (u.setAddr dev (deviceAddr sel)) := by
    simp only [devinitUpdate, h.device, h.selector]
  rw [hzero]
  refine (zeroChannels_sim (h.setAddr _ _)).bind fun u h => (commitPulse_sim h).bind fun u h => ?_
  refine (di_update_sim h 24 (m := 24)).bind fun u ⟨hu, h⟩ => .ok ?_ (devinitUpdate_last h hv)
  have hvalid := congrArg (vset · dev true) h.valid
  exact ⟨⟨⟨h.busy, h.decoded, h.dly⟩, h.device, h.selector, hvalid, h.ret⟩, hu.inStep.mpc_eq⟩

end

/-! PINIT (R222). -/

/-- One turn of PI1. -/
theorem panelDevice_sim {d : Idx} {valid : Vector Bool 4} (h : Running .pinit s) (hvalid : s.devs.valid = valid)
    (hv : vget valid d = false) :
    Sim (beginPanelDevice .pinit d s)
      (fun u => Running .pinit u ∧ u.devs.valid = vset valid d true ∧ u.pos.mpc = .pi 1)
      (fun u => if d = 3 then u else beginPanelDevice .pinit (d + 1) u) (panelDevice Config.params.check d s) := by
  have hdevice : AtDevice .pinit d (panelSelector d) valid (((s.goto (.pi 1)).setDiRet (.pi 1)).setDloop d) :=
    ⟨⟨h.busy, h.decoded, h.dly⟩, rfl, rfl, hvalid, fun _ => rfl⟩
  refine (constructDevice_sim hdevice hv).bind fun u ⟨h, _⟩ => .ok ⟨h.toRunning.goto _, h.valid, h.ret rfl⟩ ?_
  simp only [afterDevice, if_true]

theorem pinitSteps_sim (h : Running .pinit s) :
    Sim (s.goto (.pi 0)) (fun u => Running .pinit u ∧ u.pos.mpc = .pi 1) id (pinitSteps Config.params.check s) := by
  have raised := step_sim (l := .pi 0) (p := .ops [.ldacAll]) h (by simp) rfl (by simp)
  refine Sim.bind raised fun u ⟨hu, _⟩ => ?_
  have hmove : moveOn .pinit u = beginPanelDevice .pinit 0 u.clearAllValid := by
    simp only [moveOn, hu.mpc_eq, State.goto_pos]
  have hrun := (h.goto (.pi 0)).inStep hu
  have hcleared : Running .pinit u.clearAllValid := ⟨hrun.busy, hrun.decoded, hrun.dly⟩
  rw [hmove]
  refine (panelDevice_sim (valid := Vector.replicate 4 false) hcleared rfl (by decide)).bind fun u ⟨h, hv, _⟩ => ?_
  refine (panelDevice_sim h hv (by decide)).bind fun u ⟨h, hv, _⟩ => ?_
  refine (panelDevice_sim h hv (by decide)).bind fun u ⟨h, hv, _⟩ => ?_
  exact (panelDevice_sim h hv (by decide)).mono fun u ⟨h, _, hl⟩ => ⟨⟨h, hl⟩, rfl⟩

end Sys2Proof.Machine

/-! A command, action by action (R32, R40, R41). -/

namespace Sys2Proof.Machine

variable {i : Instr} {a s t u : State}

/-- The machine never stops (R310). -/
theorem exists_step (s : State) : ∃ t, step s = .next t := by
  cases hb : s.status.busy
  · rw [step_idle hb, idleStep]
    split
    case h_6 i w es hp =>
      split
      · unfold runCommand
        split
        · exact ⟨_, exec_eq _ _⟩
        · exact ⟨_, rfl⟩
      · exact ⟨_, rfl⟩
    all_goals exact ⟨_, rfl⟩
  · rw [step_busy hb, busyStep]
    split <;> exact ⟨_, rfl⟩

/-! An accepted word is decoded in the action of its first step: the machine goes from the accepted state as it goes
from the first step. -/

/-- The first step of a command is a place of the sequencer, and the byte of its loop. -/
theorem beginCommand_eq (i : Instr) (s : State) :
    ∃ b pos, beginCommand i s = (s.setShreg b).withPos pos ∧ pos.mpc ≠ .decode ∧
      ∀ d q r, beginCommand i (s.withHost d q r) = ((s.setShreg b).withPos pos).withHost d q r := by
  have goto {l : Label} (hl : l ≠ .decode)
      (h : ∀ d q r, beginCommand i (s.withHost d q r) = (s.withHost d q r).goto l) :
      ∃ b pos, beginCommand i s = (s.setShreg b).withPos pos ∧ pos.mpc ≠ .decode ∧
        ∀ d q r, beginCommand i (s.withHost d q r) = ((s.setShreg b).withPos pos).withHost d q r :=
    ⟨s.path.shreg, { s.pos with mpc := l, upc := 0 }, h s.status.drop s.io.port s.io.reads, hl, h⟩
  cases i with
  | start | read | chkack | stop => exact goto (l := .prim) (by simp) fun _ _ _ => rfl
  | write b | writel b dev =>
    exact ⟨b, { s.pos with mpc := .prim, upc := 0, bit := 7 }, rfl, by simp, fun _ _ _ => rfl⟩
  | devinit => exact goto (l := .di 0) (by simp) fun _ _ _ => rfl
  | pinit => exact goto (l := .pi 0) (by simp) fun _ _ _ => rfl
  | setch dev ch value =>
    by_cases hr : setchRejects dev ch value s = true
    · exact goto (l := .sc 0) (by simp) fun _ _ _ => if_pos hr
    · exact goto (l := .sc 1) (by simp) fun _ _ _ => if_neg hr
  | pset voice role value =>
    by_cases hv : voiceOutOfRange voice = true
    · exact goto (l := .ps 0) (by simp) fun _ _ _ => if_pos hv
    · exact goto (l := .ps 1) (by simp) fun _ _ _ => if_neg hv

theorem beginCommand_withHost (i : Instr) (s : State) (d : Bool) (q : List PortEvent) (r : List (RegIdx × Word)) :
    beginCommand i (s.withHost d q r) = (beginCommand i s).withHost d q r := by
  obtain ⟨b, pos, h, -, hhost⟩ := beginCommand_eq i s
  rw [h, hhost]

theorem engineTurn_beginCommand (hl : a.pos.mpc = .decode) (hd : decode a.path.cmdR = .ok i) :
    (beginCommand i a).engineTurn = a.engineTurn := by
  obtain ⟨b, pos, h, hpos, -⟩ := beginCommand_eq i a
  have left : (beginCommand i a).engineTurn = engineAct i (beginCommand i a) := by
    rw [h]
    simp only [State.engineTurn, State.withPos_path, State.setShreg_path, hd, State.withPos_pos, hpos, if_false]
  rw [left]
  simp only [State.engineTurn, hd, hl, if_true]

/-- A step at BUSY = 1 from the accepted state and from the first step of its command. -/
theorem step_beginCommand (hb : a.status.busy = true) (hl : a.pos.mpc = .decode) (hd : decode a.path.cmdR = .ok i) :
    (∃ d q r, step a = .next (a.withHost d q r) ∧
      step (beginCommand i a) = .next (beginCommand i (a.withHost d q r))) ∨
    step (beginCommand i a) = step a := by
  have turn (q : List PortEvent) : ((beginCommand i a).setPort q).engineTurn = (a.setPort q).engineTurn := by
    have := engineTurn_beginCommand (a := a.withHost a.status.drop q a.io.reads) hl hd
    rw [beginCommand_withHost] at this
    obtain ⟨b, pos, h, -, -⟩ := beginCommand_eq i a
    rw [h] at this ⊢
    exact this
  have here := engineTurn_beginCommand hl hd
  simp only [beginCommand_withHost]
  obtain ⟨b, pos, h, -, -⟩ := beginCommand_eq i a
  rw [h] at turn here ⊢
  rw [step_busy hb, step_busy (s := (a.setShreg b).withPos pos) hb, busyStep, busyStep]
  simp only [State.withPos_io, State.setShreg_io]
  cases hp : a.io.port with
  | nil => exact .inr (by rw [here])
  | cons e es =>
    cases e with
    | tick => exact .inr (by simp only [turn])
    | wait => exact .inr (by simp only [here])
    | rst => exact .inr rfl
    | read j env => exact .inl ⟨a.status.drop, es, (j, a.regRead j env) :: a.io.reads, rfl, rfl⟩
    | write j w =>
      by_cases hj : j = 0
      · exact .inl ⟨true, es, a.io.reads, congrArg _ (if_pos hj), congrArg _ (if_pos hj)⟩
      · exact .inl ⟨a.status.drop, es, a.io.reads, congrArg _ (if_neg hj), congrArg _ (if_neg hj)⟩

theorem reaches_of_beginCommand (hb : a.status.busy = true) (hl : a.pos.mpc = .decode)
    (hd : decode a.path.cmdR = .ok i) (h : Reaches (beginCommand i a) t) (ht : t.status.busy = false) : Reaches a t := by
  obtain ⟨n, h⟩ := h
  have busy (a : State) : (beginCommand i a).status.busy = a.status.busy := by
    obtain ⟨b, pos, h, -⟩ := beginCommand_eq i a
    rw [h]; rfl
  induction n generalizing a with
  | zero =>
    rw [← h, runWhileBusy, busy, hb] at ht
    exact nomatch ht
  | succ n ih =>
    rw [runWhileBusy, busy, hb, if_pos rfl] at h
    obtain ⟨d, q, r, hstep, hstep'⟩ | heq := step_beginCommand hb hl hd
    · rw [hstep'] at h
      exact .step hb hstep (ih (a := a.withHost d q r) hb hl hd h)
    · rw [heq] at h
      obtain ⟨a', ha⟩ := exists_step a
      rw [ha] at h
      exact .step hb ha ⟨n, h⟩

/-! The commands. -/

/-- Nothing but the end is left of a primitive command behind its last micro-op. -/
theorem complete_prim {p : Prim} (h : Running i s) (hp : primOf i (s.goto .prim) = some p)
    (hdone : Done p (s.goto .prim) u) : Post (Reaches u) (Reaches u) (complete u) := by
  obtain ⟨hu, hupc, hack⟩ := hdone
  refine complete_reaches ((h.goto .prim).inStep hu).busy fun w hw => ?_
  have hwu := hu.trans hw.inStep
  have hrun := (h.goto .prim).inStep hwu
  have hlabel : w.pos.mpc = .prim := hwu.mpc_eq
  have hop : p.op w.pos = none := p.op_size (by obtain ⟨_, _, _, rfl⟩ := hw; exact hupc)
  have hack' : ¬(p.checks = true ∧ w.path.smp = true) := by rwa [hw.path_eq]
  simp only [State.engineTurn, hrun.decoded, hlabel, reduceCtorEq, if_false, engineAct, hwu.primOf_eq.trans hp, hop,
    if_neg hack', if_true]

/-- The machine comes to the end of a command that it follows. -/
theorem Sim.ended {P : State → Prop} {exit : State → State} {r : Except State State} (h : Sim a P exit r)
    (hend : ∀ u, P u → Post (Reaches (exit u)) (Reaches (exit u)) (complete u)) :
    Reaches a (ended (r.bind complete)) := by
  have run : Post (Reaches a) (Reaches a) (r >>= complete) := Post.bind h fun u ⟨hp, hr⟩ =>
    (hend u hp).mono (fun _ g => hr.trans g) fun _ g => hr.trans g
  change Reaches a (Machine.ended (r >>= complete))
  cases hr : r >>= complete with
  | ok t => rw [hr] at run; exact run
  | error t => rw [hr] at run; exact run

theorem primitive_reaches {p : Prim} (h : Running i s) (hp : primOf i (s.goto .prim) = some p) (hne : p ≠ .ops []) :
    Reaches (beginStep i .prim s) (ended ((p.run 0 (s.goto .prim)).bind complete)) := by
  refine ((step_sim h (by simp) hp hne).mono (exit' := id) fun u hu => ⟨hu, ?_⟩).ended fun u hu =>
    complete_prim h hp hu
  have hlabel : u.pos.mpc = .prim := hu.1.mpc_eq
  simp only [moveOn, hlabel, id]

theorem devinit_reaches {dev : Idx} {sel : Selector} (h : Running (.devinit dev sel) s) :
    Reaches (s.goto (.di 0)) (ended ((devinitSteps Config.params.check dev sel s).bind complete)) := by
  have hdevice : AtDevice (.devinit dev sel) dev sel s.devs.valid s := ⟨h, rfl, rfl, rfl, nofun⟩
  have update (u : State) : devinitUpdate (.devinit dev sel) u 0 =
      if sel = 0 then u.endWith .reject dev else beginStep (.devinit dev sel) (.di 1) (u.setValid dev false) := rfl
  refine Sim.ended (P := fun u => AtDevice (.devinit dev sel) dev sel (vset (vset s.devs.valid dev false) dev true) u ∧
    u.pos.mpc = .di 24) (exit := id) ?_ fun u ⟨hu, hl⟩ => ?_
  · by_cases hs : sel = 0
    · have hsteps : devinitSteps Config.params.check dev sel s = raise .reject dev (s.goto (.di 0)) := if_pos hs
      rw [hsteps]
      refine Post.bind (di_update_sim hdevice 0 (m := 0)) fun u ⟨_, hr⟩ => ?_
      have hend : devinitUpdate (.devinit dev sel) u 0 = u.endWith .reject dev := if_pos hs
      exact hend ▸ hr
    · have hsteps : devinitSteps Config.params.check dev sel s = _ := if_neg hs
      rw [hsteps]
      refine (di_update_sim hdevice 0 (m := 0)).bind fun u ⟨_, hu⟩ => ?_
      rw [update, if_neg hs]
      have hcleared : AtDevice (.devinit dev sel) dev sel (vset s.devs.valid dev false) (u.setValid dev false) :=
        ⟨⟨hu.busy, hu.decoded, hu.dly⟩, rfl, rfl, congrArg (vset · dev false) hu.valid, nofun⟩
      exact (constructDevice_sim hcleared (vget_vset_self _ _ _)).mono fun w hw => ⟨hw, rfl⟩
  · refine complete_update (s := u) hu.toRunning (by simp [hl]) (by simp [primOf, hl, devinitPrim]) fun w hw => ?_
    have hlabel : w.pos.mpc = .di 24 := hw.inStep.mpc_eq.trans hl
    have hvalid : vget w.devs.valid dev = true := by
      rw [hw.inStep.devs_eq, hu.valid, vget_vset_self]
    simp [updateStep, hlabel, devinitUpdate, deviceOf, hvalid]

theorem complete_setch {dev : Idx} {ch : BitVec 4} {value : BitVec 16} (hops : setchOperands i = some (dev, ch, value))
    (h : Running i u) (hl : u.pos.mpc = .sc 2) : Post (Reaches u) (Reaches u) (complete u) := by
  refine complete_update h (by simp [hl]) (by simp [primOf, hl]) fun w hw => ?_
  have hlabel : w.pos.mpc = .sc 2 := hw.inStep.mpc_eq.trans hl
  simp [updateStep, hlabel, hops]

theorem pinit_reaches (h : Running .pinit s) :
    Reaches (s.goto (.pi 0)) (ended ((pinitSteps Config.params.check s).bind complete)) := by
  refine (pinitSteps_sim h).ended fun u ⟨hu, hl⟩ => ?_
  refine complete_update (s := u) hu (by simp [hl]) (by simp [primOf, hl]) fun w hw => ?_
  have hlabel : w.pos.mpc = .pi 1 := hw.inStep.mpc_eq.trans hl
  simp only [updateStep, hlabel]

theorem pset_sim {voice : BitVec 4} {role : Role} {value : BitVec 16} (h : Running (.pset voice role value) s) :
    Sim (beginCommand (.pset voice role value) s) (fun u => Running (.pset voice role value) u ∧ u.pos.mpc = .sc 2) id
      (psetSteps voice role value s) := by
  by_cases hv : voiceOutOfRange voice = true
  · have hbegin : beginCommand (.pset voice role value) s = s.goto (.ps 0) := if_pos hv
    have hsteps : psetSteps voice role value s = raise .reject 0 (s.goto (.ps 0)) := if_pos hv
    rw [hbegin, hsteps]
    refine raise_sim (h.goto _) (by simp) rfl fun u hu => ?_
    have hlabel : u.pos.mpc = .ps 0 := hu.inStep.mpc_eq
    simp [updateStep, hlabel, setchOperands, hv]
  · have hbegin : beginCommand (.pset voice role value) s = s.goto (.ps 1) := if_neg hv
    have hsteps : psetSteps voice role value s = _ := if_neg hv
    rw [hbegin, hsteps]
    refine (update_sim (h.goto (.ps 1)) (by simp) rfl).bind fun u hu => ?_
    have hlabel : u.pos.mpc = .ps 1 := hu.inStep.mpc_eq
    have hexit : updateStep (.pset voice role value) u =
        beginSetch (voice.setWidth 2) ((roleChannel role).setWidth 4) value (u.goto (.ps 2)) := by
      simp [updateStep, hlabel, setchOperands]
    rw [hexit]
    exact setchSteps_sim (((h.goto (.ps 1)).inStep hu.inStep).goto _) rfl

/-- From its first step, a command run action by action ends where its steps end. -/
theorem command_reaches (h : Running i s) :
    Reaches (beginCommand i s) (ended ((commandSteps i s).bind complete)) := by
  cases i with
  | start addr rd => exact primitive_reaches h rfl (by simp)
  | write byte => exact primitive_reaches h rfl (by simp)
  | writel byte dev => exact primitive_reaches h rfl (by simp)
  | read ack => exact primitive_reaches h rfl (by simp)
  | chkack => exact primitive_reaches h rfl (by simp)
  | stop => exact primitive_reaches (p := .ops stopOps) h rfl (by simp [stopOps])
  | devinit dev sel => exact devinit_reaches h
  | setch dev ch value => exact (setchSteps_sim h rfl).ended fun u ⟨hu, hl⟩ => complete_setch rfl hu hl
  | pinit => exact pinit_reaches h
  | pset voice role value => exact (pset_sim h).ended fun u ⟨hu, hl⟩ => complete_setch rfl hu hl

/-- A word that does not decode, run action by action, ends with ILLEGAL. -/
theorem illegal_reaches {w : Word} {e : DecodeReject} (hw : decode w = .error e) (s : State) :
    Reaches (s.accept w) (ended ((raise .illegal 0 (s.accept w)).bind complete)) := by
  have run : Post (fun _ => False) (Reaches (s.accept w)) (raise .illegal 0 (s.accept w)) := by
    refine Post.bind ((serve_post _).and (serve_reaches rfl)) fun u ⟨hu, hr⟩ => ?_
    have turn : u.engineTurn = u.endWith .illegal 0 := by
      rw [State.engineTurn, hu.path_eq, State.accept_path, hw]
    exact turn ▸ hr
  cases hr : raise .illegal 0 (s.accept w) with
  | ok u => rw [hr] at run; exact run.elim
  | error u => rw [hr] at run; exact run

end Sys2Proof.Machine

namespace Sys2Proof

open Machine

/-- Settles O58: every primitive and every register step of `exec` is actions of the engine, so a command is. -/
theorem actionsRunTheCommand : Obligations.ActionsRunTheCommand := by
  refine ⟨exists_step, fun i s hd => ?_, fun w e s hw => ?_⟩
  · have hrun : Running i (s.accept (encode i)) := ⟨rfl, decode_encode i, hd⟩
    obtain ⟨t, ht, hbusy, -, -⟩ := everyCommandCompletes i s
    obtain rfl : ended ((commandSteps i (s.accept (encode i))).bind complete) = t := by
      rw [exec_eq] at ht; cases ht; rfl
    obtain ⟨n, hn⟩ := reaches_of_beginCommand rfl rfl hrun.decoded (command_reaches hrun) hbusy
    exact ⟨n, _, ht, hn⟩
  · obtain ⟨n, hn⟩ := illegal_reaches hw s
    refine ⟨n, _, ?_, hn⟩
    rw [runCommand, hw]
    rfl

end Sys2Proof

/-! The opcode map read from a word (R90 to R94). -/

namespace Sys2Proof

theorem OpcodeRow.fits_iff (r : OpcodeRow) (w : Word) : r.fits w = true ↔ w &&& r.mask = r.pattern := by
  simp [OpcodeRow.fits]

/-- R93: the ten rows have ten opcodes. -/
theorem opcodeMap_opcodes_nodup : (opcodeMap.map fun r => opcodeOf r.pattern).Nodup := by decide

theorem row_eq_of_opcode_eq {r q : OpcodeRow} (hr : r ∈ opcodeMap) (hq : q ∈ opcodeMap)
    (h : opcodeOf r.pattern = opcodeOf q.pattern) : r = q :=
  List.inj_on_of_nodup_map opcodeMap_opcodes_nodup hr hq h

/-- A word that decodes fits the row whose operands it gives. -/
theorem fits_of_decode_eq_ok {w : Word} {i : Instr} (h : decode w = .ok i) :
    ∃ r ∈ opcodeMap, r.fits w = true ∧ r.operands w = i := by
  unfold decode at h
  split at h
  next r hr =>
    exact ⟨r, List.mem_of_find?_eq_some hr, List.find?_some (p := fun r => OpcodeRow.fits r w) hr,
      Except.ok.inj h⟩
  next => split at h <;> cases h

theorem find?_fits_eq_none {w : Word} (h : ∀ r ∈ opcodeMap, r.fits w ≠ true) :
    opcodeMap.find? (·.fits w) = none :=
  List.find?_eq_none.2 h

/-- The mask of a row fixes a field of each word of the row. -/
theorem extractLsb'_of_fits {r : OpcodeRow} {w : Word} (h : r.fits w = true) {start len : Nat}
    (hmask : r.mask.extractLsb' start len = BitVec.allOnes len) :
    r.pattern.extractLsb' start len = w.extractLsb' start len := by
  rw [← (r.fits_iff w).1 h, BitVec.extractLsb'_and, hmask, BitVec.and_allOnes]

theorem Role.code_ofCode (c : BitVec 2) : (Role.ofCode c).code = c := by revert c; decide

theorem ofBool_getLsbD_zero (w : Word) : BitVec.ofBool (w.getLsbD 0) = w.extractLsb' 0 1 := by
  apply BitVec.eq_of_getLsbD_eq
  intro j hj
  obtain rfl : j = 0 := by omega
  simp

/-- The fields of a row's format and the bits its mask fixes are all the bits of a word (R91, R93); the cases
are the rows in the order of the opcodes, START to PSET. -/
theorem encode_operands {r : OpcodeRow} (hr : r ∈ opcodeMap) {w : Word} (h : r.fits w = true) :
    encode (r.operands w) = w := by
  have fixed {start len : Nat} {x : BitVec len} (hx : r.pattern.extractLsb' start len = x)
      (hmask : r.mask.extractLsb' start len = BitVec.allOnes len) : x = w.extractLsb' start len :=
    hx ▸ extractLsb'_of_fits h hmask
  refine Eq.trans ?_ BitVec.extractLsb'_eq_self
  simp only [opcodeMap, softBusRows, compositeRows, List.cons_append, List.nil_append, List.mem_cons,
    List.not_mem_nil, or_false] at hr
  rcases hr with rfl | rfl | rfl | rfl | rfl | rfl | rfl | rfl | rfl | rfl
  · have hop : 0x1#4 = w.extractLsb' 28 4 := fixed rfl rfl
    have hres : 0#20 = w.extractLsb' 8 20 := fixed rfl rfl
    simp only [encode, hop, hres, ofBool_getLsbD_zero, BitVec.extractLsb'_append_extractLsb'_eq_extractLsb']
  · have hop : 0x2#4 = w.extractLsb' 28 4 := fixed rfl rfl
    have hres : 0#20 = w.extractLsb' 8 20 := fixed rfl rfl
    simp only [encode, hop, hres, BitVec.extractLsb'_append_extractLsb'_eq_extractLsb']
  · have hop : 0x3#4 = w.extractLsb' 28 4 := fixed rfl rfl
    have hres : 0#18 = w.extractLsb' 10 18 := fixed rfl rfl
    simp only [encode, hop, hres, BitVec.extractLsb'_append_extractLsb'_eq_extractLsb']
  · have hop : 0x4#4 = w.extractLsb' 28 4 := fixed rfl rfl
    have hres : 0#27 = w.extractLsb' 1 27 := fixed rfl rfl
    simp only [encode, hop, hres, ofBool_getLsbD_zero, BitVec.extractLsb'_append_extractLsb'_eq_extractLsb']
  · exact fixed rfl rfl
  · exact fixed rfl rfl
  · have hop : 0x8#4 = w.extractLsb' 28 4 := fixed rfl rfl
    have hres : 0#18 = w.extractLsb' 10 18 := fixed rfl rfl
    have hlow : 0#5 = w.extractLsb' 3 5 := fixed rfl rfl
    simp only [encode, hop, hres, hlow, BitVec.extractLsb'_append_extractLsb'_eq_extractLsb']
  · have hop : 0x9#4 = w.extractLsb' 28 4 := fixed rfl rfl
    have hres : 0#6 = w.extractLsb' 22 6 := fixed rfl rfl
    simp only [encode, hop, hres, BitVec.extractLsb'_append_extractLsb'_eq_extractLsb']
  · exact fixed rfl rfl
  · have hop : 0xB#4 = w.extractLsb' 28 4 := fixed rfl rfl
    have hres : 0#4 = w.extractLsb' 24 4 := fixed rfl rfl
    have hlow : 0#2 = w.extractLsb' 18 2 := fixed rfl rfl
    simp only [encode, hop, hres, hlow, Role.code_ofCode, BitVec.extractLsb'_append_extractLsb'_eq_extractLsb']

theorem encode_of_decode {w : Word} {i : Instr} (h : decode w = .ok i) : encode i = w := by
  obtain ⟨r, hr, hfits, rfl⟩ := fits_of_decode_eq_ok h
  exact encode_operands hr hfits

/-- Settles O1: the word of a command fits the row of its opcode, and the row's fields are its operands. -/
theorem encodedCommandDecodes : Obligations.EncodedCommandDecodes := decode_encode

/-- Settles O2: the row that the word fits fixes every bit outside the operands. -/
theorem decodedWordIsTheEncoding : Obligations.DecodedWordIsTheEncoding := fun _ _ => encode_of_decode

/-- Settles O3: a word of two rows would have two opcodes. -/
theorem opcodePatternsAreDisjoint : Obligations.OpcodePatternsAreDisjoint := by
  refine ⟨rfl, fun w m n r q hm hn hr => ?_⟩
  have hrow := List.mem_of_getElem? hm
  refine ⟨fun hq => ?_, decode_of_fits hrow hr⟩
  obtain rfl : r = q := row_eq_of_opcode_eq hrow (List.mem_of_getElem? hn)
    ((opcodeOf_of_fits hrow hr).trans (opcodeOf_of_fits (List.mem_of_getElem? hn) hq).symm)
  obtain ⟨hlt, -⟩ := List.getElem?_eq_some_iff.1 hm
  exact (List.getElem?_inj hlt opcodeMap_opcodes_nodup.of_map).1 (hm.trans hn.symm)

/-- R94: a word whose opcode no row has. -/
theorem decode_unknownOpcode {w : Word} (h : ∀ r ∈ opcodeMap, opcodeOf r.pattern ≠ opcodeOf w) :
    decode w = .error (.unknownOpcode (opcodeOf w)) := by
  have noRow : opcodeMap.find? (fun r => opcodeOf r.pattern == opcodeOf w) = none :=
    List.find?_eq_none.2 fun r hr => by simpa using h r hr
  rw [decode, find?_fits_eq_none fun r hr hfits => h r hr (opcodeOf_of_fits hr hfits), noRow]

/-- R94: a word of a row's opcode that does not fit the row. -/
theorem decode_reservedBitSet {w : Word} {r : OpcodeRow} (hr : r ∈ opcodeMap) (hop : opcodeOf w = opcodeOf r.pattern)
    (h : r.fits w ≠ true) : decode w = .error (.reservedBitSet r.mnemonic) := by
  have only {q : OpcodeRow} (hq : q ∈ opcodeMap) (he : opcodeOf q.pattern = opcodeOf w) : q = r :=
    row_eq_of_opcode_eq hq hr (he.trans hop)
  obtain ⟨q, hq⟩ : ∃ q, opcodeMap.find? (fun r => opcodeOf r.pattern == opcodeOf w) = some q :=
    Option.isSome_iff_exists.1 (List.find?_isSome.2 ⟨r, hr, by simp [hop]⟩)
  have hqr : q = r := only (List.mem_of_find?_eq_some hq) (by simpa using List.find?_some hq)
  rw [decode, find?_fits_eq_none fun q hq hfits => h (only hq (opcodeOf_of_fits hq hfits) ▸ hfits), hq, hqr]

/-- Settles O4: no row has a reserved opcode, and the one row of a defined opcode does not take the word. -/
theorem reservedWordsAreRejected : Obligations.ReservedWordsAreRejected := by
  have reserved {w : Word} (hw : opcodeOf w ∈ [0x0#4, 0x7#4, 0xC#4, 0xD#4, 0xE#4, 0xF#4]) :
      decode w = .error (.unknownOpcode (opcodeOf w)) := by
    have defined : ∀ r ∈ opcodeMap, opcodeOf r.pattern ∉ [0x0#4, 0x7#4, 0xC#4, 0xD#4, 0xE#4, 0xF#4] := by decide
    exact decode_unknownOpcode fun r hr he => defined r hr (he ▸ hw)
  exact ⟨fun _ => reserved,
    fun w r hr hop hne => decode_reservedBitSet hr hop (mt (r.fits_iff w).1 hne),
    ⟨_, reserved (by decide)⟩, ⟨_, reserved (by decide)⟩⟩

/-- Settles O5: each word of V27 is the word of its command. -/
theorem writtenWordsDecode : Obligations.WrittenWordsDecode :=
  ⟨decode_encode (.start 0x61 false), decode_encode (.start 0x60 true), decode_encode (.write 0xA5),
    decode_encode (.writel 0x0C 2), decode_encode (.read true), decode_encode .chkack, decode_encode .stop,
    decode_encode (.devinit 2 3), decode_encode (.setch 1 3 0xFFF), decode_encode .pinit,
    decode_encode (.pset 2 .pitch 0x800)⟩

end Sys2Proof

/-! The numbers of the command text (R100, R101). -/

namespace Sys2Proof

open Machine

/-- The word column of R100's table. -/
def Instr.number : Instr → Nat
  | .start addr rd => 0x10000000 ||| addr.toNat <<< 1 ||| rd.toNat
  | .write byte => 0x20000000 ||| byte.toNat
  | .writel byte dev => 0x30000000 ||| dev.toNat <<< 8 ||| byte.toNat
  | .read ack => 0x40000000 ||| ack.toNat
  | .chkack => 0x50000000
  | .stop => 0x60000000
  | .devinit dev sel => 0x80000000 ||| dev.toNat <<< 8 ||| sel.toNat
  | .setch dev ch value => 0x90000000 ||| dev.toNat <<< 20 ||| ch.toNat <<< 16 ||| value.toNat
  | .pinit => 0xA0000000
  | .pset voice role value => 0xB0000000 ||| voice.toNat <<< 20 ||| role.code.toNat <<< 16 ||| value.toNat

/-- Each field of R91 stands at its place in the number, and the reserved fields add nothing. -/
theorem toNat_encode (i : Instr) : (encode i).toNat = i.number := by
  cases i with
  | start addr rd =>
    change (0x1#4 ++ 0#20 ++ addr ++ BitVec.ofBool rd).toNat = _
    simp only [BitVec.toNat_append, Nat.shiftLeft_or_distrib, ← Nat.shiftLeft_add, BitVec.toNat_ofBool]
    rfl
  | write byte =>
    change (0x2#4 ++ 0#20 ++ byte).toNat = _
    simp only [BitVec.toNat_append, Nat.shiftLeft_or_distrib, ← Nat.shiftLeft_add]
    rfl
  | writel byte dev =>
    change (0x3#4 ++ 0#18 ++ dev ++ byte).toNat = _
    simp only [BitVec.toNat_append, Nat.shiftLeft_or_distrib, ← Nat.shiftLeft_add]
    rfl
  | read ack =>
    change (0x4#4 ++ 0#27 ++ BitVec.ofBool ack).toNat = _
    simp only [BitVec.toNat_append, Nat.shiftLeft_or_distrib, ← Nat.shiftLeft_add, BitVec.toNat_ofBool]
    rfl
  | chkack => rfl
  | stop => rfl
  | devinit dev sel =>
    change (0x8#4 ++ 0#18 ++ dev ++ 0#5 ++ sel).toNat = _
    simp only [BitVec.toNat_append, Nat.shiftLeft_or_distrib, ← Nat.shiftLeft_add]
    simp [Instr.number]
  | setch dev ch value =>
    change (0x9#4 ++ 0#6 ++ dev ++ ch ++ value).toNat = _
    simp only [BitVec.toNat_append, Nat.shiftLeft_or_distrib, ← Nat.shiftLeft_add]
    rfl
  | pinit => rfl
  | pset voice role value =>
    change (0xB#4 ++ 0#4 ++ voice ++ 0#2 ++ role.code ++ value).toNat = _
    simp only [BitVec.toNat_append, Nat.shiftLeft_or_distrib, ← Nat.shiftLeft_add]
    simp [Instr.number]

/-- A line in range stands for the numbers of its commands. -/
theorem textWords_eq {a : Asm} {is : List Instr} (h : a.wellFormed = true) (his : a.expand.mapM Asm.core = some is) :
    textWords a = some (is.map Instr.number) := by
  simp only [textWords, Asm.assemble, if_pos h, his, Option.map_some, toNat_encode]

/-- Settles O6: a line in range stands for its commands, whose numbers are those of R100. -/
theorem textWordsFollowTheTable : Obligations.TextWordsFollowTheTable := by
  refine ⟨fun a ha rd => ?_, fun b hb => ?_, fun b hb d hd => ?_, ⟨rfl, rfl⟩, rfl, rfl, fun d hd sel hsel => ?_,
    fun d hd k hk v hv => ?_, rfl, fun voice hvoice role v hv => ?_, fun _ _ => rfl, fun b hb => ?_,
    fun a ha => ?_, rfl, fun a ha => ?_⟩
  · rw [textWords_eq (by simpa [Asm.wellFormed] using ha) rfl]
    simp [Instr.number, Nat.mod_eq_of_lt ha]
  · rw [textWords_eq (by simpa [Asm.wellFormed] using hb) rfl]
    simp [Instr.number, Nat.mod_eq_of_lt hb]
  · rw [textWords_eq (by simpa [Asm.wellFormed] using ⟨hb, hd⟩) rfl]
    simp [Instr.number, Nat.mod_eq_of_lt hb, Nat.mod_eq_of_lt hd]
  · rw [textWords_eq (by simpa [Asm.wellFormed] using ⟨hd, hsel⟩) rfl]
    simp [Instr.number, Nat.mod_eq_of_lt hd, Nat.mod_eq_of_lt hsel]
  · rw [textWords_eq (by simpa [Asm.wellFormed, and_assoc] using ⟨hd, hk, hv⟩) rfl]
    simp [Instr.number, Nat.mod_eq_of_lt hd, Nat.mod_eq_of_lt hk, Nat.mod_eq_of_lt hv]
  · rw [textWords_eq (by simpa [Asm.wellFormed] using ⟨hvoice, hv⟩) rfl]
    simp [Instr.number, Nat.mod_eq_of_lt hvoice, Nat.mod_eq_of_lt hv]
  · rw [textWords_eq (by simpa [Asm.wellFormed] using hb) rfl]
    simp [Instr.number, Nat.mod_eq_of_lt hb]
  · rw [textWords_eq (by simpa [Asm.wellFormed] using ha) rfl]
    simp [Instr.number, Nat.mod_eq_of_lt ha]
  · simp [textWords, Asm.assemble, ha]

end Sys2Proof

/-! The bytes that a composite command sends right after a start condition (R119), whatever the host does. -/

namespace Sys2Proof.Machine

/-- R119: the general call, the discovery read, and the write address bytes of the device addresses. -/
def compositeAddresses : List Byte := [0x00, 0xC1, 0xC0, 0xC2, 0xC4, 0xC6, 0xC8, 0xCA, 0xCC, 0xCE]

theorem addressByte_deviceAddr_mem (sel : Selector) : addressByte (deviceAddr sel) false ∈ compositeAddresses := by
  revert sel; decide

/-! Byte traces, newest token first. -/

/-- The token `e` may stand right after the token `before` it: a byte after a start condition is one of R119. -/
def MayFollow (e before : WireEvent) : Prop := before = .start → ∀ b, e = .wrote b → b ∈ compositeAddresses

/-- The trace `w` goes on from `base` with tokens that may follow each other. -/
def Sent (base w : List WireEvent) : Prop := ∃ ws, w = ws ++ base ∧ ws.IsChain MayFollow

variable {base w : List WireEvent}

theorem Sent.cons (h : Sent base w) {e : WireEvent} (he : ∀ before, w.head? = some before → MayFollow e before) :
    Sent base (e :: w) := by
  obtain ⟨ws, rfl, hws⟩ := h
  refine ⟨e :: ws, rfl, List.isChain_cons.2 ⟨fun before hb => he before ?_, hws⟩⟩
  rw [List.head?_append, Option.mem_def.1 hb, Option.some_or]

theorem Sent.wrote_mem (h : Sent base w) {b : Byte} (hb : b ∈ compositeAddresses) : Sent base (.wrote b :: w) :=
  h.cons fun _ _ _ _ he => WireEvent.wrote.inj he ▸ hb

theorem Sent.wrote_afterByte (h : Sent base w) (hw : w.head? ≠ some .start) (b : Byte) : Sent base (.wrote b :: w) :=
  h.cons fun _ hb hs => absurd (hs ▸ hb) hw

theorem Sent.other (h : Sent base w) {e : WireEvent} (he : ∀ b, e ≠ .wrote b) : Sent base (e :: w) :=
  h.cons fun _ _ _ b hb => absurd hb (he b)

theorem Sent.edges (h : Sent base w) {es : List WireEvent} (hes : ∀ e ∈ es, e.isEdge = true) :
    Sent base (es ++ w) := by
  induction es with
  | nil => exact h
  | cons e es ih =>
    refine (ih fun e he => hes e (List.mem_cons_of_mem _ he)).other ?_
    rintro b rfl
    exact nomatch hes _ List.mem_cons_self

/-- A trace that goes on from `base` in this way holds only bytes of R119 right after a start condition. -/
theorem Sent.address_mem (h : Sent base w) :
    ∃ ws, w.reverse = base.reverse ++ ws ∧ ∀ pre post b, ws = pre ++ .start :: .wrote b :: post →
      b ∈ compositeAddresses := by
  obtain ⟨ws, rfl, hws⟩ := h
  refine ⟨ws.reverse, List.reverse_append, fun pre post b he => ?_⟩
  have chain := List.isChain_reverse.2 hws
  rw [he] at chain
  exact (List.isChain_append_cons_cons.1 chain).2.1 rfl b rfl

/-! Micro-ops put no byte on the trace. -/

theorem dataCondition_isEdge (p : Pins) (v : Bool) : ∀ e ∈ dataCondition p v, e.isEdge = true := by
  unfold dataCondition
  cases v <;> split <;> simp [WireEvent.isEdge]

theorem latchEdge_isEdge (p : Pins) (d : Idx) (v : Bool) : ∀ e ∈ latchEdge p d v, e.isEdge = true := by
  unfold latchEdge
  cases v <;> split <;> simp [WireEvent.isEdge]

theorem perform_wire (m : MicroOp) (s : State) :
    ∃ es, (s.perform m).io.wire = es ++ s.io.wire ∧ ∀ e ∈ es, e.isEdge = true := by
  cases m with
  | scl | wait => exact ⟨[], rfl, nofun⟩
  | sda | sdaBit => exact ⟨_, rfl, dataCondition_isEdge _ _⟩
  | ldac | sclLdac => exact ⟨_, rfl, latchEdge_isEdge _ _ _⟩
  | ldacAll =>
    refine ⟨_, rfl, fun e he => ?_⟩
    simp only [List.mem_append] at he
    obtain ((he | he) | he) | he := he <;> exact latchEdge_isEdge _ _ _ e he
  | sampleAck | sampleBit => exact ⟨[], by simp [State.perform, State.takeSample, envUsed_io, Io.after], nofun⟩

theorem afterOp_wire (m : MicroOp) (s : State) :
    ∃ es, (s.afterOp m).io.wire = es ++ s.io.wire ∧ ∀ e ∈ es, e.isEdge = true := by
  cases m with
  | wait d => exact perform_wire (.wait d) (s.setDly 0)
  | _ => exact perform_wire _ s

theorem afterOp_devs (m : MicroOp) (s : State) : (s.afterOp m).devs = s.devs := by
  cases m <;> simp [State.afterOp, State.perform, State.assignAllLdac]

theorem Served.wire_eq {s u : State} (h : Served s u) : u.io.wire = s.io.wire := by
  obtain ⟨_, _, _, rfl⟩ := h; rfl

theorem Served.pins_eq {s u : State} (h : Served s u) : u.pins = s.pins := by
  obtain ⟨_, _, _, rfl⟩ := h; rfl

/-! A command that has sent, since its trace was `base`, only bytes of R119 right after a start condition. -/

/-- The command still runs, and `K` holds of the per-device registers. -/
structure Sending (base : List WireEvent) (K : Devices → Prop) (v : State) : Prop where
  sent : Sent base v.io.wire
  devs : K v.devs

/-- The clock is low, and the next byte is no address byte. -/
structure AfterByte (v : State) : Prop where
  low : v.pins.scl = false
  last : v.io.wire.head? ≠ some .start

/-- A byte of a transaction has been sent, so the next one is no address byte. -/
structure InTransaction (base : List WireEvent) (K : Devices → Prop) (v : State) : Prop
    extends Sending base K v, AfterByte v

/-- A part of a command after which `P` holds, unless the command has ended in it. -/
def Sends (base : List WireEvent) (P : State → Prop) : Except State State → Prop :=
  Post P fun t => Sent base t.io.wire

section

variable {K : Devices → Prop} {P Q : State → Prop} {v : State}

theorem Sends.bind {r : Except State State} {f : State → Except State State} (h : Sends base P r)
    (hf : ∀ v, P v → Sends base Q (f v)) : Sends base Q (r >>= f) :=
  Post.bind h hf

theorem Sends.ite {p : Prop} [Decidable p] {r r' : Except State State} (h : p → Sends base P r)
    (h' : ¬ p → Sends base P r') : Sends base P (if p then r else r') := by
  split
  · exact h ‹_›
  · exact h' ‹_›

theorem Sending.map (h : Sending base K v) (f : State → State) (wire : (f v).io.wire = v.io.wire := by rfl)
    (devs : (f v).devs = v.devs := by rfl) : Sending base K (f v) :=
  ⟨wire ▸ h.sent, devs ▸ h.devs⟩

theorem Sending.goto (h : Sending base K v) {l : Label} : Sending base K (v.goto l) := h.map _

theorem InTransaction.map (h : InTransaction base K v) (f : State → State)
    (wire : (f v).io.wire = v.io.wire := by rfl) (devs : (f v).devs = v.devs := by rfl)
    (pins : (f v).pins = v.pins := by rfl) : InTransaction base K (f v) :=
  ⟨h.toSending.map f wire devs, pins ▸ h.low, wire ▸ h.last⟩

theorem InTransaction.goto (h : InTransaction base K v) {l : Label} : InTransaction base K (v.goto l) := h.map _

theorem Sending.served (h : Sending base K v) {u : State} (g : Served v u) : Sending base K u :=
  ⟨g.wire_eq ▸ h.sent, g.inStep.devs_eq ▸ h.devs⟩

theorem AfterByte.served (h : AfterByte v) {u : State} (g : Served v u) : AfterByte u :=
  ⟨g.pins_eq ▸ h.low, g.wire_eq ▸ h.last⟩

/-! The operations. -/

theorem serve_sends (h : Sending base K v) : Sends base (Sending base K) (serve v) := by
  refine (serve_post v).mono (fun u hu => h.served hu) ?_
  rintro t ⟨u, hu, rfl⟩
  exact (h.served hu).sent

theorem raise_sends (h : Sending base K v) (e : ErrCode) (who : Idx) : Sends base P (raise e who v) :=
  (serve_sends h).bind fun _ h => h.sent

theorem complete_sends (h : Sending base K v) : Sends base (Sending base K) (complete v) :=
  (serve_sends h).bind fun _ h => h.map State.succeed

theorem runOp_sends (h : Sending base K v) (m : MicroOp) : Sends base (Sending base K) (runOp m v) := by
  refine (runOp_post m v).mono (fun u hu => ?_) ?_
  · obtain ⟨es, hw, hes⟩ := afterOp_wire m v
    exact Sending.served ⟨hw ▸ h.sent.edges hes, afterOp_devs m v ▸ h.devs⟩ hu
  · rintro t ⟨u, hu, rfl⟩
    exact (h.served hu).sent

theorem runOps_sends (h : Sending base K v) (ms : List MicroOp) : Sends base (Sending base K) (runOps ms v) := by
  induction ms generalizing v with
  | nil => exact h
  | cons m ms ih => exact (runOp_sends h m).bind fun _ h => ih h

theorem bitsFrom_sends (h : Sending base K v) (body : Nat → List MicroOp) (head n : Nat) :
    Sends base (Sending base K) (bitsFrom body head n v) := by
  induction n generalizing v with
  | zero => exact runOps_sends h _
  | succ n ih => exact (runOps_sends h _).bind fun _ h => ih (h.map (State.atBit _ _))

theorem forBits_sends (h : Sending base K v) (body : Nat → List MicroOp) :
    Sends base (Sending base K) (forBits body v) :=
  bitsFrom_sends (h.map (State.atBit _ _)) _ _ _

/-! Inside a transaction the clock is low where the data line moves, so the cells of a byte make no condition. -/

theorem writeCell_afterByte (h : AfterByte v) : AfterByte (writeCell.foldl State.afterOp v) := by
  rw [writeCell_fold]
  exact ⟨rfl, by simpa [State.afterCell, Io.after, dataCondition, h.low] using h.last⟩

theorem latchCell_afterByte (h : AfterByte v) (dev : Idx) : AfterByte ((latchCell dev).foldl State.afterOp v) := by
  rw [latchCell_fold]
  refine ⟨rfl, ?_⟩
  by_cases hl : vget v.pins.ldac dev = false <;>
    simp [State.afterCell, Io.after, dataCondition, latchEdge, h.low, h.last, hl]

theorem runOps_inTransaction (h : InTransaction base K v) {ms : List MicroOp}
    (hms : ∀ {v}, AfterByte v → AfterByte (ms.foldl State.afterOp v)) :
    Sends base (InTransaction base K) (runOps ms v) :=
  ((runOps_post ms v).and (runOps_sends h.toSending ms)).mono
    (fun _ ⟨hs, hu⟩ => ⟨hu, (hms h.toAfterByte).served hs⟩) fun _ h => h

theorem bitsFrom_inTransaction (h : InTransaction base K v) {body : Nat → List MicroOp}
    (hbody : ∀ n {v}, AfterByte v → AfterByte ((body n).foldl State.afterOp v)) (head n : Nat) :
    Sends base (InTransaction base K) (bitsFrom body head n v) := by
  induction n generalizing v with
  | zero => exact runOps_inTransaction h (hbody _)
  | succ n ih => exact (runOps_inTransaction h (hbody _)).bind fun _ h => ih (h.map (State.atBit _ _))

theorem forBits_inTransaction (h : InTransaction base K v) {body : Nat → List MicroOp}
    (hbody : ∀ n {v}, AfterByte v → AfterByte ((body n).foldl State.afterOp v)) :
    Sends base (InTransaction base K) (forBits body v) :=
  bitsFrom_inTransaction (h.map (State.atBit _ _)) hbody _ _

/-! The primitives. -/

theorem InTransaction.logWrote (h : InTransaction base K v) (b : Byte) : InTransaction base K (v.logWire [.wrote b]) :=
  ⟨⟨h.sent.wrote_afterByte h.last b, h.devs⟩, h.low, nofun⟩

theorem busWrite_inTransaction (h : InTransaction base K v) (b : Byte) :
    Sends base (InTransaction base K) (busWrite b v) :=
  (forBits_inTransaction (h.map (State.setShreg b)) fun _ => writeCell_afterByte).bind fun _ h => h.logWrote b

theorem busWriteLatch_inTransaction (h : InTransaction base K v) (b : Byte) (dev : Idx) :
    Sends base (InTransaction base K) (busWriteLatch b dev v) := by
  have cells (n : Nat) {v : State} (h : AfterByte v) :
      AfterByte ((if n = 0 then latchCell dev else writeCell).foldl State.afterOp v) := by
    split
    · exact latchCell_afterByte h dev
    · exact writeCell_afterByte h
  exact (forBits_inTransaction (h.map (State.setShreg b)) cells).bind fun _ h => h.logWrote b

theorem busCheckAck_sends (h : Sending base K v) (who : Idx) :
    Sends base (InTransaction base K) (busCheckAck who v) := by
  have low : Sends base (fun u => Sending base K u ∧ u.pins.scl = false) (runOps checkAckOps v) :=
    ((runOps_post _ v).and (runOps_sends h _)).mono
      (fun u ⟨hs, hu⟩ => ⟨hu, by rw [hs.pins_eq, checkAckOps_fold]; rfl⟩) fun _ h => h
  refine low.bind fun u ⟨hu, hscl⟩ => .ite (fun _ => ?_) fun _ => ?_
  · exact raise_sends (v := u.logWire [.nack]) ⟨hu.sent.other nofun, hu.devs⟩ _ _
  · exact ⟨⟨hu.sent.other nofun, hu.devs⟩, hscl, nofun⟩

theorem busStart_sends (h : Sending base K v) (who : Idx) {addr : BusAddr} {rd : Bool}
    (ha : addressByte addr rd ∈ compositeAddresses) : Sends base (InTransaction base K) (busStart who addr rd v) := by
  refine (runOps_sends h _).bind fun u h => Sends.bind (P := Sending base K) ?_ fun _ h => busCheckAck_sends h who
  exact (forBits_sends (h.map (State.setShreg _)) _).bind fun _ h => ⟨h.sent.wrote_mem ha, h.devs⟩

theorem busRead_sends (h : Sending base K v) (ack : Bool) : Sends base (Sending base K) (busRead ack v) :=
  (runOps_sends h _).bind fun _ h => (forBits_sends h _).bind fun _ h =>
    (runOps_sends (h.map fun v => v.withRdata v.path.shreg) _).bind fun _ h => ⟨h.sent.other nofun, h.devs⟩

theorem busStop_sends (h : Sending base K v) : Sends base (Sending base K) (busStop v) := runOps_sends h _

theorem latch_sends (h : Sending base K v) (d : Idx) (b : Bool) : Sends base (Sending base K) (latch d b v) :=
  runOps_sends h _

/-! The step tables. -/

/-- The device is at a device address (R63). -/
def Devices.Addressable (d : Idx) (c : Devices) : Prop := ∃ sel, vget c.addr d = deviceAddr sel

theorem channelWrite_sends {d : Idx} (h : Sending base (Devices.Addressable d) v) (k : Idx) (x : ChanValue) :
    Sends base (Sending base (Devices.Addressable d)) (channelWrite d k x v) := by
  obtain ⟨sel, hsel⟩ := h.devs
  have address : addressByte (vget v.devs.addr d) false ∈ compositeAddresses :=
    hsel ▸ addressByte_deviceAddr_mem sel
  exact (busStart_sends (h.map fun v => (v.setCwRet v.pos.mpc).goto (.cw 1)) d address).bind fun _ h =>
    (busWrite_inTransaction h.goto _).bind fun _ h => (busCheckAck_sends h.toSending.goto d).bind fun _ h =>
    (busWrite_inTransaction h.goto _).bind fun _ h => (busCheckAck_sends h.toSending.goto d).bind fun _ h =>
    (busWrite_inTransaction h.goto _).bind fun _ h => (busCheckAck_sends h.toSending.goto d).bind fun _ h =>
    (busStop_sends h.toSending.goto).bind fun _ h => (serve_sends h.goto).bind fun _ h => ⟨h.sent, h.devs⟩

/-- A channel write that SC0 does not reject is to a valid device, which is at a device address. -/
theorem setchSteps_sends (h : Sending base Devices.InOrder v) (dev : Idx) (ch : BitVec 4) (value : BitVec 16) :
    Sends base (Sending base (Devices.Addressable dev)) (setchSteps dev ch value v) := by
  refine .ite (fun _ => raise_sends h.goto _ _) fun hr => ?_
  have valid : vget v.devs.valid dev = true :=
    eq_true_of_ne_false fun hv => hr (by simp [setchRejects, hv])
  obtain ⟨sel, -, hsel⟩ := h.devs dev valid
  have addressable : Sending base (Devices.Addressable dev) v := ⟨h.sent, sel, hsel⟩
  exact (serve_sends addressable.goto.goto).bind fun _ h => channelWrite_sends (h.map fun v =>
    (v.setOperands dev (ch.setWidth 2) (value.setWidth 12) (vget v.devs.addr dev)).goto (.sc 2)) _ _

theorem psetSteps_sends (h : Sending base Devices.InOrder v) (voice : BitVec 4) (role : Role) (value : BitVec 16) :
    Sends base (Sending base (Devices.Addressable (voice.setWidth 2))) (psetSteps voice role value v) :=
  .ite (fun _ => raise_sends h.goto _ _) fun _ =>
    (serve_sends h.goto.goto).bind fun _ h => setchSteps_sends h.goto _ _ _

theorem discover_sends (h : Sending base K v) (dev : Idx) : Sends base (Sending base K) (discover dev v) :=
  (busStart_sends h.goto dev (by decide)).bind fun _ h => (busWriteLatch_inTransaction h.goto _ dev).bind fun _ h =>
    (busCheckAck_sends h.toSending.goto dev).bind fun _ h =>
    (busStart_sends h.toSending.goto dev (by decide)).bind fun _ h =>
    (busRead_sends h.toSending.goto false).bind fun _ h =>
    (busStop_sends (h.map fun v => (v.setRb v.path.shreg).goto (.di 7))).bind fun _ h => latch_sends h.goto dev true

theorem validate_sends (h : Sending base K v) (c : Config.CheckBits) (dev : Idx) :
    Sends base (Sending base K) (validate c dev v) :=
  .ite (fun _ => (serve_sends h.goto).bind fun _ h => h.map fun v => v.setCurA (copyA v.path.rb))
    fun _ => raise_sends h.goto _ _

theorem readdress_sends (h : Sending base K v) (dev : Idx) (sel : Selector) :
    Sends base (Sending base K) (readdress dev sel v) :=
  (busStart_sends h.goto dev (addressByte_deviceAddr_mem _)).bind fun _ h =>
    (busWriteLatch_inTransaction h.goto _ dev).bind fun _ h => (busCheckAck_sends h.toSending.goto dev).bind fun _ h =>
    (busWrite_inTransaction h.goto _).bind fun _ h => (busCheckAck_sends h.toSending.goto dev).bind fun _ h =>
    (busWrite_inTransaction h.goto _).bind fun _ h => (busCheckAck_sends h.toSending.goto dev).bind fun _ h =>
    (busStop_sends h.toSending.goto).bind fun _ h => latch_sends h dev true

theorem readdressIfNeeded_sends (h : Sending base K v) (dev : Idx) (sel : Selector) :
    Sends base (Sending base K) (readdressIfNeeded dev sel v) :=
  (serve_sends h.goto).bind fun _ h => .ite (fun _ => h) fun _ => readdress_sends h dev sel

theorem zeroChannels_sends {dev : Idx} (h : Sending base (Devices.Addressable dev) v) :
    Sends base (Sending base (Devices.Addressable dev)) (zeroChannels dev v) := by
  have turn {v : State} (h : Sending base (Devices.Addressable dev) v) (k : Idx) :
      Sends base (Sending base (Devices.Addressable dev)) (zeroChannel dev k v) :=
    channelWrite_sends (h.map fun v => (v.goto (.di 20)).setKloop k) k 0
  exact (turn h 0).bind fun _ h => (turn h 1).bind fun _ h => (turn h 2).bind fun _ h => turn h 3

theorem commitPulse_sends (h : Sending base K v) (dev : Idx) : Sends base (Sending base K) (commitPulse dev v) :=
  (latch_sends h.goto dev false).bind fun _ h => (runOps_sends h.goto _).bind fun _ h => latch_sends h.goto dev true

/-- The zeroing writes go to the address that DI19 has given the device. -/
theorem constructDevice_sends (h : Sending base K v) (c : Config.CheckBits) (dev : Idx) (sel : Selector) :
    Sends base (Sending base (Devices.Addressable dev)) (constructDevice c dev sel v) :=
  (latch_sends h.goto dev true).bind fun _ h => (discover_sends h dev).bind fun _ h =>
    (validate_sends h c dev).bind fun _ h => (readdressIfNeeded_sends h dev sel).bind fun _ h =>
    (serve_sends h.goto).bind fun v h =>
    (zeroChannels_sends (v := v.setAddr dev (deviceAddr sel)) ⟨h.sent, sel, vget_vset_self _ _ _⟩).bind fun _ h =>
    (commitPulse_sends h dev).bind fun _ h => (serve_sends h.goto).bind fun _ h => ⟨h.sent, h.devs⟩

theorem devinitSteps_sends (h : Sending base K v) (c : Config.CheckBits) (dev : Idx) (sel : Selector) :
    Sends base (Sending base (Devices.Addressable dev)) (devinitSteps c dev sel v) :=
  .ite (fun _ => raise_sends h.goto _ _) fun _ => (serve_sends h.goto).bind fun v h =>
    constructDevice_sends (K := fun _ => True) (v := v.setValid dev false) ⟨h.sent, trivial⟩ c dev sel

theorem panelDevice_sends (h : Sending base K v) (c : Config.CheckBits) (d : Idx) :
    Sends base (Sending base (Devices.Addressable d)) (panelDevice c d v) :=
  (constructDevice_sends (h.map fun v => ((v.goto (.pi 1)).setDiRet (.pi 1)).setDloop d) c d _).bind fun _ h => h.goto

theorem pinitSteps_sends (h : Sending base K v) (c : Config.CheckBits) :
    Sends base (Sending base (Devices.Addressable 3)) (pinitSteps c v) :=
  (runOps_sends h.goto _).bind fun v h =>
    (panelDevice_sends (K := fun _ => True) (v := v.clearAllValid) ⟨h.sent, trivial⟩ c 0).bind fun _ h =>
    (panelDevice_sends h c 1).bind fun _ h => (panelDevice_sends h c 2).bind fun _ h => panelDevice_sends h c 3

/-- The end of a command. -/
theorem Sends.ended {i : Instr} {s t : State} (h : Sends base (Sending base K) (commandSteps i (s.accept (encode i))))
    (ht : exec i s = .next t) : Sent base t.io.wire := by
  obtain ⟨t', ht', hsent⟩ := Post.finish (F := fun t => Sent base t.io.wire) h
    (fun _ h => (complete_sends h).mono (fun _ h => h.sent) fun _ h => h) fun _ h => h
  rw [exec_eq, ht'] at ht
  cases ht
  exact hsent

end

end Sys2Proof.Machine

namespace Sys2Proof

open Machine

/-- Settles O52: every start condition of a step table stands before an address byte of R119, and the bytes behind
that one find the clock low, so they make no start condition of their own. -/
theorem compositeAddressBytes : Obligations.CompositeAddressBytes := by
  intro i s t hs ht hi
  obtain ⟨-, -, -, -, -, -, inOrder⟩ := hs
  have start : Sending s.io.wire Devices.InOrder (s.accept (encode i)) := ⟨⟨[], rfl, .nil⟩, inOrder⟩
  have sent : Sent s.io.wire t.io.wire := by
    cases i with
    | devinit dev sel => exact (devinitSteps_sends start _ dev sel).ended ht
    | setch dev ch value => exact (setchSteps_sends start dev ch value).ended ht
    | pinit => exact (pinitSteps_sends start _).ended ht
    | pset voice role value => exact (psetSteps_sends start voice role value).ended ht
    | _ => exact hi.elim
  exact sent.address_mem

end Sys2Proof

/-! The host that runs command text (R101; log entry 29). -/

namespace Sys2Proof.Machine

/-! A list of lines. -/

theorem assembleLine_of_wellFormed {a : Asm} (h : a.wellFormed = true) : ∃ is, assembleLine a = some (a, is) := by
  obtain ⟨is, his⟩ : ∃ is, a.expand.mapM Asm.core = some is := by cases a <;> exact ⟨_, rfl⟩
  exact ⟨is, by rw [assembleLine, Asm.assemble, if_pos h, his, Option.map_some]⟩

theorem assembleLine_of_not_wellFormed {a : Asm} (h : a.wellFormed = false) : assembleLine a = none := by
  rw [assembleLine, Asm.assemble, h]; rfl

theorem assembleLines_of_wellFormed {as : List Asm} (h : ∀ a ∈ as, a.wellFormed = true) :
    ∃ ls, as.mapM assembleLine = some ls := by
  induction as with
  | nil => exact ⟨[], rfl⟩
  | cons a as ih =>
    obtain ⟨is, ha⟩ := assembleLine_of_wellFormed (h a List.mem_cons_self)
    obtain ⟨ls, hls⟩ := ih fun a ha => h a (List.mem_cons_of_mem _ ha)
    exact ⟨(a, is) :: ls, by simp [ha, hls]⟩

theorem assembleLines_of_not_wellFormed {as : List Asm} (h : ∃ a ∈ as, a.wellFormed = false) :
    as.mapM assembleLine = none := by
  induction as with
  | nil => simp at h
  | cons a as ih =>
    obtain ⟨x, hx, hbad⟩ := h
    obtain rfl | hx := List.mem_cons.1 hx
    · simp [assembleLine_of_not_wellFormed hbad]
    · simp [ih ⟨x, hx, hbad⟩]

theorem hostProgram_single {a : Asm} {is : List Instr} (ha : assembleLine a = some (a, is)) (s : State) :
    hostProgram [a] s = some (hostLine a is s) := by
  simp [hostProgram, ha, hostLines]

/-- The first line runs; the others run from the state it leaves, unless it stops the sequence. -/
theorem hostProgram_cons {a : Asm} {is : List Instr} (ha : assembleLine a = some (a, is)) {as : List Asm}
    (has : ∀ a ∈ as, a.wellFormed = true) (s : State) :
    hostProgram (a :: as) s =
      if stopsSequence a (hostLine a is s) then some (hostLine a is s) else hostProgram as (hostLine a is s) := by
  obtain ⟨ls, hls⟩ := assembleLines_of_wellFormed has
  simp only [hostProgram, List.mapM_cons, ha, hls, Option.map_some, hostLines, Option.bind_eq_bind, Option.bind_some,
    Option.pure_def]
  split <;> rfl

/-! The two commands of a WRITEA. -/

theorem afterStep_eq {s t : State} (h : step s = .next t) : afterStep s = t := by rw [afterStep, h]

/-- The host's write of CMD runs the command, and its poll finds BUSY = 0. -/
theorem hostCommand_eq {s t : State} {i : Instr} (hb : s.status.busy = false) (hp : s.io.port = [])
    (h : exec i (s.setPort [.wait]) = .next t) (hbusy : t.status.busy = false) (hport : t.io.port = [.wait]) :
    hostCommand s i = t.setPort [] := by
  have acts : s.hostActs (hostRuns i) = s.setPort [.write 0 (encode i), .wait] := by
    rw [State.hostActs, hp]; rfl
  have run : step (s.setPort [.write 0 (encode i), .wait]) = .next t := by
    rw [step_idle (by exact hb)]
    simp only [idleStep, State.setPort_io, if_true, runCommand, decode_encode]
    exact h
  have poll : step t = .next (t.setPort []) := by rw [step_idle hbusy, idleStep, hport]
  rw [hostCommand, acts, afterStep_eq run, afterStep_eq poll]

theorem finish_ok {s : State} (h : s.quiet = true) : finish (.ok s) = .next s.succeed := by
  rw [finish, run_ok_bind', complete_quiet h]
  rfl

theorem exec_write_quiet {s : State} (h : s.quiet = true) (b : Byte) :
    exec (.write b) s = .next (((s.accept (encode (.write b))).goto .prim).afterWrite b).succeed := by
  rw [exec_eq, commandSteps, busWrite_quiet (by exact h), finish_ok (by exact h)]

theorem exec_chkack_quiet {s : State} (h : s.quiet = true) :
    exec .chkack s = .next (if s.io.answer 0 then
      ((s.accept (encode .chkack)).goto .prim).afterCheckAck.endWith .noAck 0
      else ((s.accept (encode .chkack)).goto .prim).afterCheckAck.succeed) := by
  rw [exec_eq, commandSteps, busCheckAck_quiet (by exact h), State.goto_io, State.accept_io]
  split
  · rfl
  · exact finish_ok (by exact h)

/-- WRITE takes no sample: the answer that the next command finds is the same. -/
theorem hostCommand_write {s : State} (hb : s.status.busy = false) (hp : s.io.port = []) (b : Byte) :
    (hostCommand s (.write b)).status.busy = false ∧ (hostCommand s (.write b)).io.port = [] ∧
      (hostCommand s (.write b)).io.answer 0 = s.io.answer 0 := by
  rw [hostCommand_eq hb hp (exec_write_quiet (s := s.setPort [.wait]) rfl b) rfl rfl]
  exact ⟨rfl, rfl, Io.after_answer s.io 0 0 (lineOfWrite b) (dataCondition s.pins (b.getLsbD 7) ++ [.wrote b])⟩

theorem hostCommand_chkack {s : State} (hb : s.status.busy = false) (hp : s.io.port = []) :
    (hostCommand s .chkack).status.err = if s.io.answer 0 then .noAck else .ok := by
  have answer : (s.setPort [.wait]).io.answer 0 = s.io.answer 0 := rfl
  rw [hostCommand_eq hb hp (exec_chkack_quiet (s := s.setPort [.wait]) rfl) (by split <;> rfl) (by split <;> rfl),
    answer]
  split <;> rfl

/-- R101: CHKACK of a WRITEA ends with what the chip answers to its byte. -/
theorem hostLine_writea_err {s : State} (hb : s.status.busy = false) (hp : s.io.port = []) (b : Nat) (x : Byte) :
    (hostLine (.writea b) [.write x, .chkack] s).status.err = if s.io.answer 0 then .noAck else .ok := by
  obtain ⟨busy, port, answer⟩ := hostCommand_write hb hp x
  have check := hostCommand_chkack busy port
  rwa [answer] at check

theorem stopsSequence_writea (b : Nat) (s : State) : stopsSequence (.writea b) s = true ↔ s.status.err = .noAck := by
  simp [stopsSequence]

theorem stopsSequence_of_ne_writea {a : Asm} (h : ∀ b, a ≠ .writea b) (s : State) : stopsSequence a s = false := by
  cases a with
  | writea b => exact absurd rfl (h b)
  | _ => rfl

end Sys2Proof.Machine

namespace Sys2Proof

open Machine

/-- Settles O60: the CHKACK of a WRITEA ends with NO_ACK exactly when the next answer is no acknowledge, and only
then does the list of lines stop. -/
theorem writeaStopsTheSequence : Obligations.WriteaStopsTheSequence := by
  refine fun s as hb hp => ⟨fun has => ⟨fun b hrange => ?_, fun a ha hne => ?_⟩, fun hbad => ?_⟩
  · have line : assembleLine (.writea b) = some (.writea b, [.write (BitVec.ofNat 8 b), .chkack]) := by
      have inRange : (Asm.writea b).wellFormed = true := by simpa [Asm.wellFormed] using hrange
      rw [assembleLine, Asm.assemble, if_pos inRange]
      rfl
    have err := hostLine_writea_err hb hp b (BitVec.ofNat 8 b)
    refine ⟨fun hanswer => ?_, fun hanswer => ?_⟩
    · rw [hanswer, if_pos rfl] at err
      refine ⟨_, err, hostProgram_single line s, ?_⟩
      rw [hostProgram_cons line has, if_pos ((stopsSequence_writea b _).2 err)]
    · rw [hanswer, if_neg Bool.false_ne_true] at err
      refine ⟨_, err, hostProgram_single line s, ?_⟩
      rw [hostProgram_cons line has, if_neg]
      simp [stopsSequence_writea, err]
  · obtain ⟨is, line⟩ := assembleLine_of_wellFormed ha
    refine ⟨_, hostProgram_single line s, ?_⟩
    rw [hostProgram_cons line has, stopsSequence_of_ne_writea hne, if_neg Bool.false_ne_true]
  · rw [hostProgram, assembleLines_of_not_wellFormed hbad]
    rfl

end Sys2Proof

/-! The primitive commands with the port left alone (R138 to R150). -/

namespace Sys2Proof.Machine

/-- A command that its last step has ended, with the registers that the step left. -/
theorem completes_endWith {v : State} (hdrop : v.status.drop = false) (e : ErrCode) (who : Idx) :
    Completes (.next (v.endWith e who)) v.pins (endStatus e who) v.rdata v.devs v.path v.io :=
  ⟨_, rfl, rfl, by simp [endStatus, hdrop], rfl, rfl, rfl, rfl, rfl⟩

/-- A step table that has run to its end completes with success (R41). -/
theorem completes_ok {v : State} (hq : v.quiet = true) (hdrop : v.status.drop = false) :
    Completes (finish (.ok v)) v.pins (endStatus .ok 0) v.rdata v.devs v.path v.io := by
  rw [finish_ok hq]
  exact completes_endWith (v := v.goto .idle) hdrop .ok 0

/-- A step table that ends with an acknowledge check: the sample decides between NO_ACK and success, and the
registers are the same in both outcomes (R144, R151). -/
theorem completes_check {v : State} (hq : v.quiet = true) (hdrop : v.status.drop = false) (sample : Bool) :
    Completes (finish (if sample then .error (v.endWith .noAck 0) else .ok v)) v.pins
      (endStatus (if sample then .noAck else .ok) 0) v.rdata v.devs v.path v.io := by
  cases sample
  · exact completes_ok hq hdrop
  · exact completes_endWith hdrop .noAck 0

/-- Bit 7 - j of the byte that eight answers make is the j-th of them (R146). -/
theorem byteOf_getLsbD (a : Nat → Bool) {j : Nat} (hj : j < 8) : (byteOf a).getLsbD (7 - j) = a j := by
  obtain ⟨h7, h6, h5, h4, h3, h2, h1, h0⟩ := byteOf_bits a
  match j, hj with
  | 0, _ => exact h7
  | 1, _ => exact h6
  | 2, _ => exact h5
  | 3, _ => exact h4
  | 4, _ => exact h3
  | 5, _ => exact h2
  | 6, _ => exact h1
  | 7, _ => exact h0

/-- A command that completes is over in the one state, with these pins. -/
theorem Completes.pins_eq {o : Host.Outcome State Fault Refusal} {pins : Pins} {status : Status} {rdata : Byte}
    {devs : Devices} {path : Datapath} {io : Io} (h : Completes o pins status rdata devs path io) {t : State}
    (ht : o = .next t) : t.pins = pins := by
  obtain ⟨t', rfl, hpins, -⟩ := h
  cases ht
  exact hpins

/-- A command that completes, by its code and by what it has put on the byte trace. -/
theorem Completes.err_and_bytes {o : Host.Outcome State Fault Refusal} {pins : Pins} {e : ErrCode} {who : Idx}
    {rdata : Byte} {devs : Devices} {path : Datapath} {io : Io} {n : Nat} {line : List LineEvent}
    {wire : List WireEvent}
    (h : Completes o pins (endStatus e who) rdata devs path (io.after n line wire)) :
    ∃ t, o = .next t ∧ t.status.err = e ∧ t.byteTrace = io.wire.reverse ++ wire := by
  obtain ⟨t, ht, -, hstatus, -, -, -, -, hio⟩ := h
  refine ⟨t, ht, by rw [hstatus]; rfl, ?_⟩
  rw [State.byteTrace, hio]
  simp [Io.after]

end Sys2Proof.Machine

namespace Sys2Proof

open Machine

/-- Settles O16: `busStart` ends with its check, whose sample alone decides the code. -/
theorem startResult : Obligations.StartResult := by
  intro s addr rd hq
  rw [exec_eq, commandSteps, busStart_quiet (by exact hq)]
  exact completes_check (v := ((s.accept _).goto .prim).afterStart (addressByte addr rd)) hq rfl (s.io.answer 0)

/-- Settles O17: the data line is released with the clock low, so COND_START makes a start condition only. -/
theorem repeatedStartMakesNoStop : Obligations.RepeatedStartMakesNoStop := by
  intro s addr rd hq hscl hsda
  obtain ⟨t, ht, -, hbytes⟩ := (startResult s addr rd hq).err_and_bytes
  refine ⟨t, ht, ?_⟩
  have noStop : dataCondition s.pins true = [] := by simp [dataCondition, hscl]
  rwa [noStop, List.nil_append] at hbytes

/-- Settles O18: eight write cells, and no step that can fail. -/
theorem writeResult : Obligations.WriteResult := by
  intro s b hq
  rw [exec_eq, commandSteps, busWrite_quiet (by exact hq)]
  exact completes_ok (v := ((s.accept _).goto .prim).afterWrite b) hq rfl

/-- Settles O19: the latch falls with the clock in the cell of bit 0. -/
theorem writelResult : Obligations.WritelResult := by
  intro s b dev hq
  rw [exec_eq, commandSteps, busWriteLatch_quiet (by exact hq)]
  exact completes_ok (v := ((s.accept _).goto .prim).afterWriteLatch b dev) hq rfl

/-- Settles O20: the one sample decides the code. -/
theorem chkackResult : Obligations.ChkackResult := by
  intro s hq
  rw [exec_eq, commandSteps, busCheckAck_quiet (by exact hq)]
  exact completes_check (v := ((s.accept _).goto .prim).afterCheckAck) hq rfl (s.io.answer 0)

/-- Settles O21: the eight samples are the byte, the first one its bit 7. -/
theorem readResult : Obligations.ReadResult := by
  intro s ack hq
  refine ⟨?_, fun j hj => ?_⟩
  · rw [exec_eq, commandSteps, busRead_quiet (by exact hq)]
    exact completes_ok (v := ((s.accept _).goto .prim).afterRead ack) hq rfl
  · rw [Io.answerByte, byteOf_getLsbD _ hj, Nat.zero_add]

/-- Settles O22: the data line rises while the clock is high. -/
theorem stopResult : Obligations.StopResult := by
  intro s hq
  rw [exec_eq, commandSteps, busStop_quiet (by exact hq)]
  exact completes_ok (v := ((s.accept _).goto .prim).afterStop) hq rfl

end Sys2Proof

/-! Where the lines are at the end of a command (R137). -/

namespace Sys2Proof.Machine

theorem Cut.atBoundary {es : List PortEvent} {t : State} (h : Cut es t) : t.atBoundary = true := by
  obtain ⟨-, v, rfl⟩ := h
  rfl

/-- A command that no reset cuts ends beside the same command with the port left alone. -/
theorem exec_beside_quiet {i : Instr} {s t : State} (hs : s.noReset = true) (ht : exec i s = .next t) :
    ∃ u, exec i (s.setPort []) = .next u ∧ Beside s.io.port u t := by
  obtain ⟨t', u, ht', hu, h⟩ := exec_beside_of_noReset hs i
  rw [ht] at ht'
  cases ht'
  exact ⟨u, hu, h⟩

theorem Within.atBoundary_end {moves : Idx → Prop} {reads : Prop} {c : Devices} {es : List PortEvent} {s v t : State}
    {e : ErrCode} {who : Idx} (h : Within moves reads c s v) (hs : s.atBoundary = true)
    (ht : Beside es (v.endWith e who) t) : t.atBoundary = true := by
  rw [State.atBoundary, ht.pins_eq]
  exact h.boundary hs

/-- The pins `p` that a primitive command leaves: the bus held, or idle after STOP (R137). -/
def leavesLines (i : Instr) (p : Pins) : Prop :=
  match i with
  | .start _ _ | .write _ | .writel _ _ | .read _ | .chkack => p.scl = false ∧ p.sda = false
  | .stop => p.scl = true ∧ p.sda = true
  | .devinit _ _ | .setch _ _ _ | .pinit | .pset _ _ _ => True

theorem exec_leavesLines_quiet {i : Instr} {s t : State} (hq : s.quiet = true) (ht : exec i s = .next t) :
    leavesLines i t.pins := by
  cases i with
  | start addr rd => rw [(startResult s addr rd hq).pins_eq ht]; exact ⟨rfl, rfl⟩
  | write b => rw [(writeResult s b hq).pins_eq ht]; exact ⟨rfl, rfl⟩
  | writel b dev => rw [(writelResult s b dev hq).pins_eq ht]; exact ⟨rfl, rfl⟩
  | read ack => rw [(readResult s ack hq).1.pins_eq ht]; exact ⟨rfl, rfl⟩
  | chkack => rw [(chkackResult s hq).pins_eq ht]; exact ⟨rfl, rfl⟩
  | stop => rw [(stopResult s hq).pins_eq ht]; exact ⟨rfl, rfl⟩
  | devinit | setch | pinit | pset => trivial

end Sys2Proof.Machine

namespace Sys2Proof

open Machine

/-- Settles O42: a command that no reset cuts ends with the pins of the same command with the port left alone, and
a reset leaves both lines high. -/
theorem commandsEndAtABoundary : Obligations.CommandsEndAtABoundary := by
  intro i s t ht
  refine ⟨fun hb => ?_, fun hs => ?_⟩
  · obtain ⟨t', ht', hend⟩ := exec_ends_beside i s
    obtain rfl : t' = t := by rw [ht] at ht'; cases ht'; rfl
    obtain hcut | ⟨v, e, who, c, hbeside, hw, -⟩ := hend
    · exact hcut.atBoundary
    · exact hw.atBoundary_end hb hbeside
  · obtain ⟨u, hu, hbeside⟩ := exec_beside_quiet hs ht
    have lines : leavesLines i t.pins := hbeside.pins_eq ▸ exec_leavesLines_quiet (s := s.setPort []) rfl hu
    exact lines

end Sys2Proof

/-! A predicate that everything a command is made of keeps (R130, R131). -/

namespace Sys2Proof.Machine

/-- `P` is kept by the host's turn, by the parts of the step tables that move a pin or write a trace, and by every
update of other registers. -/
structure Kept (P : State → Prop) : Prop where
  registers : ∀ {s t : State}, P s → t.pins = s.pins → t.io = s.io → P t
  serve : ∀ {s : State}, P s → Post P P (serve s)
  condStart : ∀ {s : State}, P s → Post P P (runOps condStartOps s)
  write : ∀ {s : State}, P s → ∀ b, Post P P (busWrite b s)
  writeLatch : ∀ {s : State}, P s → ∀ b dev, Post P P (busWriteLatch b dev s)
  checkAck : ∀ {s : State}, P s → ∀ who, Post P P (busCheckAck who s)
  read : ∀ {s : State}, P s → ∀ ack, Post P P (busRead ack s)
  stop : ∀ {s : State}, P s → Post P P (busStop s)
  latch : ∀ {s : State}, P s → ∀ d v, Post P P (latch d v s)
  allLatches : ∀ {s : State}, P s → Post P P (runOps [.ldacAll] s)
  pause : ∀ {s : State}, P s → Post P P (runOps [.wait .h] s)

theorem Post.ite {P E : State → Prop} {c : Prop} [Decidable c] {r r' : Except State State} (h : Post P E r)
    (h' : Post P E r') : Post P E (if c then r else r') := by
  split
  · exact h
  · exact h'

section

variable {P : State → Prop} (k : Kept P) {s : State}
include k

theorem Kept.map (h : P s) (f : State → State) (pins : (f s).pins = s.pins := by rfl)
    (io : (f s).io = s.io := by rfl) : P (f s) :=
  k.registers h pins io

theorem Kept.goto (h : P s) {l : Label} : P (s.goto l) := k.map h _

theorem Kept.raise (h : P s) (e : ErrCode) (who : Idx) : Post P P (raise e who s) :=
  (k.serve h).bind fun _ h => k.map h (State.endWith e who)

theorem Kept.complete (h : P s) : Post P P (complete s) :=
  (k.serve h).bind fun _ h => k.map h State.succeed

theorem Kept.start (h : P s) (who : Idx) (addr : BusAddr) (rd : Bool) : Post P P (busStart who addr rd s) :=
  (k.condStart h).bind fun _ h => (k.write h _).bind fun _ h => k.checkAck h who

theorem Kept.channelWrite (h : P s) (d c : Idx) (v : ChanValue) : Post P P (channelWrite d c v s) :=
  (k.start (k.map h fun s => (s.setCwRet s.pos.mpc).goto (.cw 1)) d _ _).bind fun _ h =>
    (k.write (k.goto h) _).bind fun _ h => (k.checkAck (k.goto h) d).bind fun _ h =>
    (k.write (k.goto h) _).bind fun _ h => (k.checkAck (k.goto h) d).bind fun _ h =>
    (k.write (k.goto h) _).bind fun _ h => (k.checkAck (k.goto h) d).bind fun _ h =>
    (k.stop (k.goto h)).bind fun _ h => (k.serve (k.goto h)).bind fun _ h =>
    k.map h fun s => (s.setCache d c v).goto s.pos.cwRet

theorem Kept.setchSteps (h : P s) (dev : Idx) (ch : BitVec 4) (value : BitVec 16) :
    Post P P (setchSteps dev ch value s) :=
  .ite (k.raise (k.goto h) .reject dev) <| (k.serve (k.goto (k.goto h))).bind fun _ h => k.channelWrite
    (k.map h fun s => (s.setOperands dev (ch.setWidth 2) (value.setWidth 12) (vget s.devs.addr dev)).goto (.sc 2)) _ _ _

theorem Kept.psetSteps (h : P s) (voice : BitVec 4) (role : Role) (value : BitVec 16) :
    Post P P (psetSteps voice role value s) :=
  .ite (k.raise (k.goto h) .reject 0) <| (k.serve (k.goto (k.goto h))).bind fun _ h => k.setchSteps (k.goto h) _ _ _

theorem Kept.discover (h : P s) (dev : Idx) : Post P P (discover dev s) :=
  (k.start (k.goto h) dev _ _).bind fun _ h => (k.writeLatch (k.goto h) _ dev).bind fun _ h =>
    (k.checkAck (k.goto h) dev).bind fun _ h => (k.start (k.goto h) dev _ _).bind fun _ h =>
    (k.read (k.goto h) false).bind fun _ h =>
    (k.stop (k.map h fun s => (s.setRb s.path.shreg).goto (.di 7))).bind fun _ h => k.latch (k.goto h) dev true

theorem Kept.validate (h : P s) (c : Config.CheckBits) (dev : Idx) : Post P P (validate c dev s) :=
  .ite ((k.serve (k.goto h)).bind fun _ h => k.map h fun s => s.setCurA (copyA s.path.rb))
    (k.raise (k.goto h) .addrMismatch dev)

theorem Kept.readdress (h : P s) (dev : Idx) (sel : Selector) : Post P P (readdress dev sel s) :=
  (k.start (k.goto h) dev _ _).bind fun _ h => (k.writeLatch (k.goto h) _ dev).bind fun _ h =>
    (k.checkAck (k.goto h) dev).bind fun _ h => (k.write (k.goto h) _).bind fun _ h =>
    (k.checkAck (k.goto h) dev).bind fun _ h => (k.write (k.goto h) _).bind fun _ h =>
    (k.checkAck (k.goto h) dev).bind fun _ h => (k.stop (k.goto h)).bind fun _ h => k.latch h dev true

theorem Kept.readdressIfNeeded (h : P s) (dev : Idx) (sel : Selector) : Post P P (readdressIfNeeded dev sel s) :=
  (k.serve (k.goto h)).bind fun _ h => .ite h (k.readdress h dev sel)

theorem Kept.zeroChannels (h : P s) (dev : Idx) : Post P P (zeroChannels dev s) := by
  have turn {s : State} (h : P s) (c : Idx) : Post P P (zeroChannel dev c s) :=
    k.channelWrite (k.map h fun s => (s.goto (.di 20)).setKloop c) dev c 0
  exact (turn h 0).bind fun _ h => (turn h 1).bind fun _ h => (turn h 2).bind fun _ h => turn h 3

theorem Kept.commitPulse (h : P s) (dev : Idx) : Post P P (commitPulse dev s) :=
  (k.latch (k.goto h) dev false).bind fun _ h => (k.pause (k.goto h)).bind fun _ h => k.latch (k.goto h) dev true

theorem Kept.constructDevice (h : P s) (c : Config.CheckBits) (dev : Idx) (sel : Selector) :
    Post P P (constructDevice c dev sel s) :=
  (k.latch (k.goto h) dev true).bind fun _ h => (k.discover h dev).bind fun _ h =>
    (k.validate h c dev).bind fun _ h => (k.readdressIfNeeded h dev sel).bind fun _ h =>
    (k.serve (k.goto h)).bind fun _ h =>
    (k.zeroChannels (k.map h (State.setAddr dev (deviceAddr sel))) dev).bind fun _ h =>
    (k.commitPulse h dev).bind fun _ h => (k.serve (k.goto h)).bind fun _ h => k.map h (State.setValid dev true)

theorem Kept.devinitSteps (h : P s) (c : Config.CheckBits) (dev : Idx) (sel : Selector) :
    Post P P (devinitSteps c dev sel s) :=
  .ite (k.raise (k.goto h) .reject dev) <| (k.serve (k.goto h)).bind fun _ h =>
    k.constructDevice (k.map h (State.setValid dev false)) c dev sel

theorem Kept.panelDevice (h : P s) (c : Config.CheckBits) (d : Idx) : Post P P (panelDevice c d s) :=
  (k.constructDevice (k.map h fun s => ((s.goto (.pi 1)).setDiRet (.pi 1)).setDloop d) c d _).bind fun _ h => k.goto h

theorem Kept.pinitSteps (h : P s) (c : Config.CheckBits) : Post P P (pinitSteps c s) :=
  (k.allLatches (k.goto h)).bind fun _ h => (k.panelDevice (k.map h State.clearAllValid) c 0).bind fun _ h =>
    (k.panelDevice h c 1).bind fun _ h => (k.panelDevice h c 2).bind fun _ h => k.panelDevice h c 3

theorem Kept.commandSteps (h : P s) (i : Instr) : Post P P (commandSteps i s) := by
  cases i with
  | start addr rd => exact k.start (k.goto h) 0 addr rd
  | write byte => exact k.write (k.goto h) byte
  | writel byte dev => exact k.writeLatch (k.goto h) byte dev
  | read ack => exact k.read (k.goto h) ack
  | chkack => exact k.checkAck (k.goto h) 0
  | stop => exact k.stop (k.goto h)
  | devinit dev sel => exact k.devinitSteps h _ dev sel
  | setch dev ch value => exact k.setchSteps h dev ch value
  | pinit => exact k.pinitSteps h _
  | pset voice role value => exact k.psetSteps h voice role value

/-- A command keeps what its parts keep. -/
theorem Kept.exec (h : P s) {i : Instr} {t : State} (ht : exec i s = .next t) : P t := by
  obtain ⟨t', ht', hP⟩ := Post.finish (F := P) (k.commandSteps (k.map h (State.accept (encode i))) i)
    (fun _ h => k.complete h) fun _ h => h
  rw [exec_eq, ht'] at ht
  cases ht
  exact hP

end

end Sys2Proof.Machine

/-! The pins and the edges on the wire are those of the line trace, whatever the host does (R131, R135, R136). -/

namespace Sys2Proof.Machine

/-- From `s` to `t` both traces have grown: the new line tokens drive the pins, and their conditions and latch edges
are those among the new tokens of the byte trace. -/
def Traced (s t : State) : Prop :=
  ∃ es ws, t.lineTrace = s.lineTrace ++ es ∧ t.byteTrace = s.byteTrace ++ ws ∧ t.pins = replay s.pins es ∧
    ws.filter WireEvent.isEdge = edgesOf s.pins es

theorem replay_append (p : Pins) (es fs : List LineEvent) : replay p (es ++ fs) = replay (replay p es) fs :=
  List.foldl_append

theorem edgesOf_append (p : Pins) (es fs : List LineEvent) :
    edgesOf p (es ++ fs) = edgesOf p es ++ edgesOf (replay p es) fs := by
  induction es generalizing p with
  | nil => rfl
  | cons e es ih => simp only [List.cons_append, edgesOf, ih, List.append_assoc]; rfl

theorem edges_isEdge (p : Pins) (e : LineEvent) : ∀ w ∈ e.edges p, w.isEdge = true := by
  cases e with
  | sda v => exact dataCondition_isEdge p v
  | ldac d v => exact latchEdge_isEdge p d v
  | sclLdac d => exact latchEdge_isEdge p d false
  | ldacAll =>
    intro w hw
    simp only [LineEvent.edges, List.mem_append] at hw
    obtain ((hw | hw) | hw) | hw := hw <;> exact latchEdge_isEdge _ _ _ w hw
  | scl | wait | sample | reset => nofun

section

variable {s t u : State}

theorem Traced.trans (h : Traced s t) (g : Traced t u) : Traced s u := by
  obtain ⟨es, ws, hl, hw, hp, he⟩ := h
  obtain ⟨fs, xs, gl, gw, gp, ge⟩ := g
  refine ⟨es ++ fs, ws ++ xs, ?_, ?_, ?_, ?_⟩
  · rw [gl, hl, List.append_assoc]
  · rw [gw, hw, List.append_assoc]
  · rw [gp, hp, replay_append]
  · rw [List.filter_append, he, ge, edgesOf_append, hp]

/-- Neither the pins nor the traces have changed. -/
theorem Traced.of_eq (pins : t.pins = s.pins) (line : t.io.line = s.io.line) (wire : t.io.wire = s.io.wire) :
    Traced s t :=
  ⟨[], [], by simp [State.lineTrace, line], by simp [State.byteTrace, wire], pins, rfl⟩

theorem Traced.refl (s : State) : Traced s s := .of_eq rfl rfl rfl

/-- One token of the line trace, with its edges. -/
theorem Traced.token (e : LineEvent) (pins : t.pins = e.drive s.pins) (line : t.io.line = e :: s.io.line)
    (wire : t.io.wire = (e.edges s.pins).reverse ++ s.io.wire) : Traced s t := by
  refine ⟨[e], e.edges s.pins, by simp [State.lineTrace, line], by simp [State.byteTrace, wire], pins, ?_⟩
  rw [List.filter_eq_self.2 (edges_isEdge _ e), edgesOf, edgesOf, List.append_nil]

/-- One token of the byte trace that is no edge. -/
theorem Traced.logByte (s : State) {w : WireEvent} (hw : w.isEdge = false) : Traced s (s.logWire [w]) :=
  ⟨[], [w], by simp [State.lineTrace], by simp [State.byteTrace], rfl, by simp [hw, edgesOf]⟩

theorem Served.traced (h : Served s t) : Traced s t := by
  obtain ⟨_, _, _, rfl⟩ := h
  exact .of_eq rfl rfl rfl

theorem traced_hardReset (s : State) : Traced s s.hardReset := .token .reset rfl rfl rfl

theorem traced_perform (m : MicroOp) (s : State) : Traced s (s.perform m) := by
  cases m with
  | scl v => exact .token (.scl v) rfl rfl rfl
  | sda v => exact .token (.sda v) rfl rfl (by simp [State.perform, LineEvent.edges])
  | sdaBit => exact .token (.sda _) rfl rfl (by simp [State.perform, LineEvent.edges])
  | ldac d v => exact .token (.ldac d v) rfl rfl (by simp [State.perform, LineEvent.edges])
  | ldacAll => exact .token .ldacAll rfl rfl (by simp [State.perform, LineEvent.edges, State.assignAllLdac])
  | sclLdac d => exact .token (.sclLdac d) rfl rfl (by simp [State.perform, LineEvent.edges])
  | sampleAck | sampleBit =>
    exact .token (.sample s.sampled) (by simp [State.perform, LineEvent.drive])
      (by simp [State.perform, State.takeSample]) (by simp [State.perform, LineEvent.edges])
  | wait d => exact .token (.wait d) rfl rfl rfl

theorem traced_afterOp (m : MicroOp) (s : State) : Traced s (s.afterOp m) := by
  cases m with
  | wait d => exact traced_perform (.wait d) (s.setDly 0)
  | _ => exact traced_perform _ s

/-- A part of a command, with its traces from `s` on. -/
def Traces (s : State) : Except State State → Prop := Post (Traced s) (Traced s)

theorem Traces.after {r : Except State State} (g : Traces t r) (h : Traced s t) : Traces s r :=
  Post.mono g (fun _ => h.trans) fun _ => h.trans

theorem Traces.bind {r : Except State State} {f : State → Except State State} (h : Traces s r)
    (hf : ∀ t, Traces t (f t)) : Traces s (r >>= f) :=
  Post.bind h fun t ht => (hf t).after ht

theorem reset_traced (h : ∃ u, Served s u ∧ t = u.hardReset) : Traced s t := by
  obtain ⟨u, hu, rfl⟩ := h
  exact hu.traced.trans (traced_hardReset u)

end

theorem serve_traces (s : State) : Traces s (serve s) :=
  (serve_post s).mono (fun _ => Served.traced) fun _ => reset_traced

theorem raise_traces (e : ErrCode) (who : Idx) (s : State) : Traces s (raise e who s) :=
  (serve_traces s).bind fun _ => Traced.of_eq rfl rfl rfl

theorem runOp_traces (m : MicroOp) (s : State) : Traces s (runOp m s) :=
  (runOp_post m s).mono (fun _ hu => (traced_afterOp m s).trans hu.traced) fun _ => reset_traced

theorem runOps_traces (ms : List MicroOp) (s : State) : Traces s (runOps ms s) := by
  induction ms generalizing s with
  | nil => exact .refl s
  | cons m ms ih => exact (runOp_traces m s).bind ih

theorem bitsFrom_traces (body : Nat → List MicroOp) (head n : Nat) (s : State) :
    Traces s (bitsFrom body head n s) := by
  induction n generalizing s with
  | zero => exact runOps_traces _ s
  | succ n ih => exact (runOps_traces _ s).bind fun _ => (ih _).after (.of_eq rfl rfl rfl)

theorem forBits_traces (body : Nat → List MicroOp) (s : State) : Traces s (forBits body s) :=
  (bitsFrom_traces body _ 7 _).after (.of_eq rfl rfl rfl)

theorem busWrite_traces (b : Byte) (s : State) : Traces s (busWrite b s) :=
  .after (t := s.setShreg b) ((forBits_traces _ _).bind fun t => Traced.logByte t rfl) (.of_eq rfl rfl rfl)

theorem busWriteLatch_traces (b : Byte) (dev : Idx) (s : State) : Traces s (busWriteLatch b dev s) :=
  .after (t := s.setShreg b) ((forBits_traces _ _).bind fun t => Traced.logByte t rfl) (.of_eq rfl rfl rfl)

theorem busCheckAck_traces (who : Idx) (s : State) : Traces s (busCheckAck who s) :=
  (runOps_traces _ s).bind fun t => .ite ((raise_traces _ who _).after (.logByte t rfl)) (Traced.logByte t rfl)

theorem busRead_traces (ack : Bool) (s : State) : Traces s (busRead ack s) :=
  (runOps_traces _ s).bind fun _ => (forBits_traces _ _).bind fun t =>
    .after (t := t.withRdata t.path.shreg) ((runOps_traces _ _).bind fun u => Traced.logByte u rfl) (.of_eq rfl rfl rfl)

/-- Every part of a command, whatever the host does, writes both traces together. -/
theorem traced_kept (s : State) : Kept (Traced s) where
  registers h pins io := h.trans (.of_eq pins (io ▸ rfl) (io ▸ rfl))
  serve h := (serve_traces _).after h
  condStart h := (runOps_traces _ _).after h
  write h b := (busWrite_traces b _).after h
  writeLatch h b dev := (busWriteLatch_traces b dev _).after h
  checkAck h who := (busCheckAck_traces who _).after h
  read h ack := (busRead_traces ack _).after h
  stop h := (runOps_traces _ _).after h
  latch h _ _ := (runOps_traces _ _).after h
  allLatches h := (runOps_traces _ _).after h
  pause h := (runOps_traces _ _).after h

end Sys2Proof.Machine

namespace Sys2Proof

open Machine

/-- Settles O43: each micro-op, and a reset, moves the pins as its token says. -/
theorem pinsFollowTheLineTrace : Obligations.PinsFollowTheLineTrace := by
  intro i s t ht
  obtain ⟨es, -, hline, -, hpins, -⟩ := (traced_kept s).exec (.refl s) ht
  exact ⟨es, hline, hpins⟩

/-- Settles O44: each micro-op logs the edges of its token, and the other tokens of the byte trace are no edges. -/
theorem byteTraceFollowsTheLineTrace : Obligations.ByteTraceFollowsTheLineTrace := by
  intro i s t ht
  obtain ⟨es, ws, hline, hwire, -, hedges⟩ := (traced_kept s).exec (.refl s) ht
  exact ⟨es, ws, hline, hwire, hedges⟩

end Sys2Proof

/-! Where the samples of a line trace stand (R133, R134). -/

namespace Sys2Proof.Machine

/-- Of the tokens `es`, which drive the pins from `p` on and of which the first comes after `before`, every sample
comes after `wait(H)` and before the fall of the clock, with both lines released. -/
def SamplesSafe : Pins → Option LineEvent → List LineEvent → Prop
  | _, _, [] => True
  | p, before, e :: es =>
    (∀ b, e = .sample b → before = some (.wait .h) ∧ es.head? = some (.scl false) ∧ p.scl = true ∧ p.sda = true) ∧
      SamplesSafe (e.drive p) (some e) es

/-- A trace whose first token is no sample may come after any token. -/
theorem SamplesSafe.after_any {p : Pins} {es : List LineEvent} (h : SamplesSafe p none es)
    (before : Option LineEvent) : SamplesSafe p before es := by
  cases es with
  | nil => trivial
  | cons e es =>
    obtain ⟨he, hes⟩ := h
    exact ⟨fun b hb => (nomatch (he b hb).1), hes⟩

theorem SamplesSafe.append {p : Pins} {before : Option LineEvent} {es fs : List LineEvent}
    (h : SamplesSafe p before es) (g : SamplesSafe (replay p es) none fs) : SamplesSafe p before (es ++ fs) := by
  induction es generalizing p before with
  | nil => exact g.after_any before
  | cons e es ih =>
    obtain ⟨he, hes⟩ := h
    refine ⟨fun b hb => ?_, ih hes g⟩
    obtain ⟨hbefore, hnext, hlines⟩ := he b hb
    exact ⟨hbefore, List.head?_append.trans (by rw [hnext, Option.some_or]), hlines⟩

/-- What it says of one sample. -/
theorem SamplesSafe.at_sample {p : Pins} {before : Option LineEvent} {pre post : List LineEvent} {b : Bool}
    (h : SamplesSafe p before (pre ++ .sample b :: post)) :
    pre.getLast?.or before = some (.wait .h) ∧ post.head? = some (.scl false) ∧
      (replay p pre).scl = true ∧ (replay p pre).sda = true := by
  induction pre generalizing p before with
  | nil => exact h.1 b rfl
  | cons e pre ih =>
    obtain ⟨hlast, hrest⟩ := ih h.2
    refine ⟨?_, hrest⟩
    rw [List.getLast?_cons, Option.some_or]
    cases hp : pre.getLast? <;> simpa [hp] using hlast

/-- From `s` to `t` the line trace has grown by tokens that drive the pins and whose samples each end a high phase. -/
def Sampled (s t : State) : Prop :=
  ∃ es, t.lineTrace = s.lineTrace ++ es ∧ t.pins = replay s.pins es ∧ SamplesSafe s.pins none es

theorem Sampled.trans {s t u : State} (h : Sampled s t) (g : Sampled t u) : Sampled s u := by
  obtain ⟨es, hl, hp, hs⟩ := h
  obtain ⟨fs, gl, gp, gs⟩ := g
  refine ⟨es ++ fs, by rw [gl, hl, List.append_assoc], by rw [gp, hp, replay_append], hs.append ?_⟩
  rwa [hp] at gs

/-- The new tokens, oldest first. -/
theorem Sampled.of_line {s t : State} (es : List LineEvent) (line : t.io.line = es.reverse ++ s.io.line)
    (pins : t.pins = replay s.pins es) (safe : SamplesSafe s.pins none es) : Sampled s t :=
  ⟨es, by simp [State.lineTrace, line], pins, safe⟩

theorem Sampled.of_eq {s t : State} (line : t.io.line = s.io.line) (pins : t.pins = s.pins) : Sampled s t :=
  .of_line [] line pins trivial

theorem Sampled.refl (s : State) : Sampled s s := .of_eq rfl rfl

/-! The line traces of the primitives. -/

theorem lineOfCondStart_safe (p : Pins) : SamplesSafe p none lineOfCondStart := by
  simp [lineOfCondStart, SamplesSafe]

theorem lineOfCell_safe (p : Pins) (x : Bool) : SamplesSafe p none (lineOfCell x) := by
  simp [lineOfCell, SamplesSafe]

theorem lineOfLatchCell_safe (p : Pins) (x : Bool) (d : Idx) : SamplesSafe p none (lineOfLatchCell x d) := by
  simp [lineOfLatchCell, SamplesSafe]

theorem lineOfHighBits_safe (p : Pins) (b : Byte) : SamplesSafe p none (lineOfHighBits b) := by
  have cell (i : Nat) (p : Pins) := lineOfCell_safe p (b.getLsbD i)
  exact ((((((cell 7 _).append (cell 6 _)).append (cell 5 _)).append (cell 4 _)).append (cell 3 _)).append
    (cell 2 _)).append (cell 1 _)

theorem lineOfWrite_safe (p : Pins) (b : Byte) : SamplesSafe p none (lineOfWrite b) :=
  (lineOfHighBits_safe p b).append (lineOfCell_safe _ _)

theorem lineOfWriteLatch_safe (p : Pins) (b : Byte) (d : Idx) : SamplesSafe p none (lineOfWriteLatch b d) :=
  (lineOfHighBits_safe p b).append (lineOfLatchCell_safe _ _ d)

theorem lineOfCheckAck_safe (p : Pins) (b : Bool) : SamplesSafe p none (lineOfCheckAck b) := by
  simp [lineOfCheckAck, SamplesSafe, LineEvent.drive]

/-- A read cell samples with the data line as it finds it. -/
theorem lineOfReadCell_safe {p : Pins} (h : p.sda = true) (b : Bool) : SamplesSafe p none (lineOfReadCell b) := by
  simp [lineOfReadCell, SamplesSafe, LineEvent.drive, h]

/-- READ releases the data line first, and its read cells leave it so. -/
theorem lineOfRead_safe (p : Pins) (r : Byte) (ack : Bool) : SamplesSafe p none (lineOfRead r ack) := by
  have release : SamplesSafe p none [.sda true] := by simp [SamplesSafe]
  have cell (i : Nat) {p : Pins} (h : p.sda = true) := lineOfReadCell_safe h (r.getLsbD i)
  refine (release.append ?_).append (lineOfCell_safe _ (!ack))
  exact (((((((cell 7 rfl).append (cell 6 rfl)).append (cell 5 rfl)).append (cell 4 rfl)).append (cell 3 rfl)).append
    (cell 2 rfl)).append (cell 1 rfl)).append (cell 0 rfl)

theorem lineOfStop_safe (p : Pins) : SamplesSafe p none lineOfStop := by
  simp [lineOfStop, SamplesSafe]

/-! The parts of a command, with the port left alone. -/

theorem Beside.lineTrace_eq {es : List PortEvent} {u s : State} (h : Beside es u s) : s.lineTrace = u.lineTrace := by
  obtain ⟨_, _, _, _, _, _, rfl⟩ := h; rfl

/-- The port is left alone, and the samples since `s` each end a high phase. -/
def QuietlySampled (s t : State) : Prop := t.quiet = true ∧ Sampled s t

/-- A part of a command with the port left alone, with the samples from `s` on. -/
theorem QuietlySampled.step {s t u : State} (h : QuietlySampled s t) (g : Sampled t u)
    (port : u.io.port = t.io.port := by rfl) : QuietlySampled s u :=
  ⟨(quiet_of_port port).trans h.1, h.2.trans g⟩

/-- One micro-op that is no sample. -/
theorem QuietlySampled.runOps_single {s t : State} (h : QuietlySampled s t) {m : MicroOp} (e : LineEvent)
    (line : (t.afterOp m).io.line = e :: t.io.line) (pins : (t.afterOp m).pins = e.drive t.pins)
    (notSample : ∀ b, e ≠ .sample b) : Post (QuietlySampled s) (QuietlySampled s) (runOps [m] t) := by
  rw [runOps_quiet h.1]
  refine h.step (.of_line [e] line pins ⟨fun b hb => absurd hb (notSample b), trivial⟩) ?_
  cases m <;> simp [State.afterOp, perform_port]

theorem busCheckAck_sampled (s : State) : Sampled s s.afterCheckAck :=
  .of_line _ rfl rfl (lineOfCheckAck_safe _ (s.io.answer 0))

theorem quietlySampled_kept (s : State) : Kept (QuietlySampled s) where
  registers h pins io := h.step (.of_eq (io ▸ rfl) pins) (io ▸ rfl)
  serve h := by
    rw [serve_quiet h.1]
    exact h
  condStart h := by
    rw [runOps_quiet h.1, condStartOps_fold]
    exact h.step (.of_line _ rfl rfl (lineOfCondStart_safe _))
  write h b := by
    rw [busWrite_quiet h.1]
    exact h.step (.of_line _ rfl rfl (lineOfWrite_safe _ b))
  writeLatch h b dev := by
    rw [busWriteLatch_quiet h.1]
    exact h.step (.of_line _ rfl rfl (lineOfWriteLatch_safe _ b dev))
  checkAck h who := by
    rw [busCheckAck_quiet h.1]
    exact .ite (h.step (busCheckAck_sampled _)) (h.step (busCheckAck_sampled _))
  read h ack := by
    rw [busRead_quiet h.1]
    exact h.step (.of_line _ rfl rfl (lineOfRead_safe _ _ ack))
  stop h := by
    rw [busStop_quiet h.1]
    exact h.step (.of_line _ rfl rfl (lineOfStop_safe _))
  latch h d v := h.runOps_single (.ldac d v) rfl rfl nofun
  allLatches h := h.runOps_single .ldacAll rfl rfl nofun
  pause h := h.runOps_single (.wait .h) rfl rfl nofun

end Sys2Proof.Machine

namespace Sys2Proof

open Machine

/-- Settles O45: a command that no reset cuts leaves the line trace of the same command with the port left alone,
and every part of that one puts its samples at the end of a high phase. -/
theorem samplesEndAHighPhase : Obligations.SamplesEndAHighPhase := by
  intro i s t hs ht
  obtain ⟨u, hu, hbeside⟩ := exec_beside_quiet hs ht
  obtain ⟨-, es, hline, -, safe⟩ := (quietlySampled_kept (s.setPort [])).exec ⟨rfl, .refl _⟩ hu
  refine ⟨es, hbeside.lineTrace_eq.trans hline, ?_⟩
  rintro pre post b rfl
  obtain ⟨hlast, hrest⟩ := safe.at_sample
  exact ⟨(Option.or_none ..).symm.trans hlast, hrest⟩

end Sys2Proof

/-! A bus on which nothing answers (R151, R248; E7 of 95_test_vectors.md). -/

namespace Sys2Proof.Machine

/-- The port is left alone, the lines are at a boundary, and the next sample reads 1. -/
structure Silent (s : State) : Prop where
  quiet : s.quiet = true
  boundary : s.atBoundary = true
  answer : s.io.answer 0 = true

/-- A part of a command from `s` on that ends with NO_ACK of the device `who`, `wire` on the byte trace. -/
def EndsUnanswered (s : State) (who : Idx) (wire : List WireEvent) (r : Except State State) : Prop :=
  ∃ t, r = .error t ∧ t.status.err = .noAck ∧ t.status.errDev = who ∧ t.byteTrace = s.byteTrace ++ wire

/-- At a boundary the release of the data line makes no condition. -/
theorem dataCondition_boundary {s : State} (h : s.atBoundary = true) : dataCondition s.pins true = [] := by
  have level : s.pins.scl = s.pins.sda := beq_iff_eq.1 h
  rw [dataCondition, level]
  cases s.pins.sda <;> rfl

/-- Nothing of a command follows after its end. -/
theorem EndsUnanswered.bind {s : State} {who : Idx} {wire : List WireEvent} {r : Except State State}
    (h : EndsUnanswered s who wire r) (f : State → Except State State) : EndsUnanswered s who wire (r >>= f) := by
  obtain ⟨t, rfl, ht⟩ := h
  exact ⟨t, rfl, ht⟩

theorem EndsUnanswered.after {s u : State} {who : Idx} {wire first : List WireEvent} {r : Except State State}
    (h : EndsUnanswered u who wire r) (hu : u.byteTrace = s.byteTrace ++ first) :
    EndsUnanswered s who (first ++ wire) r := by
  obtain ⟨t, hr, herr, hdev, hbytes⟩ := h
  exact ⟨t, hr, herr, hdev, by rw [hbytes, hu, List.append_assoc]⟩

theorem EndsUnanswered.exec {i : Instr} {s : State} {who : Idx} {wire : List WireEvent}
    (h : EndsUnanswered s who wire (commandSteps i (s.accept (encode i)))) :
    ∃ t, exec i s = .next t ∧ t.status.err = .noAck ∧ t.status.errDev = who ∧ t.byteTrace = s.byteTrace ++ wire := by
  obtain ⟨t, hr, ht⟩ := h
  exact ⟨t, by rw [exec_eq, hr]; rfl, ht⟩

section

variable {s : State} (h : Silent s)
include h

theorem Silent.goto (l : Label) : Silent (s.goto l) := ⟨h.quiet, h.boundary, h.answer⟩

/-- The address byte is the first byte of a transaction, and it is not acknowledged. -/
theorem Silent.busStart (who : Idx) (addr : BusAddr) (rd : Bool) :
    EndsUnanswered s who (wireOfStart (addressByte addr rd) true) (busStart who addr rd s) := by
  rw [busStart_quiet h.quiet, if_pos h.answer]
  refine ⟨_, rfl, rfl, rfl, ?_⟩
  simp [State.byteTrace, State.afterStart, Io.after, dataCondition_boundary h.boundary, h.answer, wireOfStart]

theorem Silent.channelWrite (d k : Idx) (v : ChanValue) :
    EndsUnanswered s d (wireOfStart (addressByte (vget s.devs.addr d) false) true) (channelWrite d k v s) := by
  have silent : Silent ((s.setCwRet s.pos.mpc).goto (.cw 1)) := ⟨h.quiet, h.boundary, h.answer⟩
  exact (silent.busStart d (vget s.devs.addr d) false).bind _

theorem Silent.setchSteps {dev : Idx} {ch : BitVec 4} {value : BitVec 16}
    (accepted : setchRejects dev ch value s = false) :
    EndsUnanswered s dev (wireOfStart (addressByte (vget s.devs.addr dev) false) true)
      (setchSteps dev ch value s) := by
  have silent : Silent ((((s.goto (.sc 0)).goto (.sc 1)).setOperands dev (ch.setWidth 2) (value.setWidth 12)
      (vget s.devs.addr dev)).goto (.sc 2)) := ⟨h.quiet, h.boundary, h.answer⟩
  have steps := silent.channelWrite dev (ch.setWidth 2) (value.setWidth 12)
  rwa [Machine.setchSteps, if_neg (by exact ne_true_of_eq_false accepted), serve_quiet (by exact h.quiet)]

theorem Silent.psetSteps {voice : BitVec 4} {role : Role} {value : BitVec 16}
    (inRange : voiceOutOfRange voice = false)
    (accepted : setchRejects (voice.setWidth 2) ((roleChannel role).setWidth 4) value s = false) :
    EndsUnanswered s (voice.setWidth 2)
      (wireOfStart (addressByte (vget s.devs.addr (voice.setWidth 2)) false) true)
      (psetSteps voice role value s) := by
  have silent : Silent (((s.goto (.ps 0)).goto (.ps 1)).goto (.ps 2)) := ⟨h.quiet, h.boundary, h.answer⟩
  have steps := silent.setchSteps accepted
  rwa [Machine.psetSteps, if_neg (ne_true_of_eq_false inRange), serve_quiet (by exact h.quiet)]

/-- A latch moves neither line and takes no sample. -/
theorem Silent.afterLatch (d : Idx) (v : Bool) : Silent (s.afterOp (.ldac d v)) :=
  ⟨(afterOp_quiet _ s).trans h.quiet, h.boundary, by rw [afterOp_ldac_io, Io.after_answer]; exact h.answer⟩

/-- DI1 raises a latch that was low; the general call of DI2 is the first byte. -/
theorem Silent.constructDevice (c : Config.CheckBits) (dev : Idx) (sel : Selector) :
    EndsUnanswered s dev (latchEdge s.pins dev true ++ wireOfStart 0x00 true) (constructDevice c dev sel s) := by
  have raised := (h.goto (.di 1)).afterLatch dev true
  have bytes : ((s.goto (.di 1)).afterOp (.ldac dev true)).byteTrace = s.byteTrace ++ latchEdge s.pins dev true := by
    rw [State.byteTrace, afterOp_ldac_io]
    simp [Io.after, State.byteTrace]
  have discovery : EndsUnanswered _ dev (wireOfStart 0x00 true) (discover dev _) :=
    ((raised.goto (.di 2)).busStart dev generalCall false).bind _
  rw [Machine.constructDevice, latch_quiet (by exact h.quiet), run_ok_bind]
  exact EndsUnanswered.after (discovery.bind _) bytes

theorem Silent.devinitSteps (c : Config.CheckBits) (dev : Idx) {sel : Selector} (hsel : sel ≠ 0) :
    EndsUnanswered s dev (latchEdge s.pins dev true ++ wireOfStart 0x00 true) (devinitSteps c dev sel s) := by
  have silent : Silent ((s.goto (.di 0)).setValid dev false) := ⟨h.quiet, h.boundary, h.answer⟩
  have steps := silent.constructDevice c dev sel
  rwa [Machine.devinitSteps, if_neg hsel, serve_quiet (by exact h.quiet)]

theorem Silent.panelDevice (c : Config.CheckBits) (d : Idx) :
    EndsUnanswered s d (latchEdge s.pins d true ++ wireOfStart 0x00 true) (panelDevice c d s) := by
  have silent : Silent (((s.goto (.pi 1)).setDiRet (.pi 1)).setDloop d) := ⟨h.quiet, h.boundary, h.answer⟩
  exact (silent.constructDevice c d (panelSelector d)).bind _

/-- PI0 raises the latches that were low, so that DI1 of device 0 finds its latch high. -/
theorem Silent.pinitSteps (c : Config.CheckBits) :
    EndsUnanswered s 0 (wireOfPanelLatches s.pins ++ wireOfStart 0x00 true) (pinitSteps c s) := by
  have silent : Silent ((s.goto (.pi 0)).afterOp .ldacAll).clearAllValid := ⟨h.quiet, h.boundary, h.answer⟩
  have bytes : ((s.goto (.pi 0)).afterOp .ldacAll).clearAllValid.byteTrace =
      s.byteTrace ++ wireOfPanelLatches s.pins := by
    simp [State.byteTrace, State.afterOp, State.perform, State.assignAllLdac, wireOfPanelLatches]
  have high : latchEdge ((s.goto (.pi 0)).afterOp .ldacAll).clearAllValid.pins 0 true = [] := rfl
  have first := silent.panelDevice c 0
  rw [high, List.nil_append] at first
  rw [Machine.pinitSteps, runOps_quiet (by exact h.quiet), run_ok_bind]
  exact (first.after bytes).bind _

end

theorem setchRejects_eq_false {dev : Idx} {ch : BitVec 4} {value : BitVec 16} {s : State} (hch : ch.toNat ≤ 3)
    (hvalue : value.toNat ≤ 4095) (hvalid : vget s.devs.valid dev = true) : setchRejects dev ch value s = false := by
  have channel : channelOutOfRange ch = false := decide_eq_false (BitVec.not_lt.2 (BitVec.le_def.2 hch))
  have range : valueOutOfRange value = false := decide_eq_false (BitVec.not_lt.2 (BitVec.le_def.2 hvalue))
  rw [setchRejects, channel, range, hvalid]
  rfl

theorem voiceOutOfRange_eq_false {voice : BitVec 4} (h : voice.toNat ≤ 3) : voiceOutOfRange voice = false :=
  decide_eq_false (BitVec.not_lt.2 (BitVec.le_def.2 h))

/-- R225: a role is mapped to a channel in range. -/
theorem roleChannel_le (role : Role) : ((roleChannel role).setWidth 4).toNat ≤ 3 := by
  cases role <;> decide

end Sys2Proof.Machine

namespace Sys2Proof

open Machine

/-- Settles O53: whatever the command does before its first byte, that byte's check reads 1 and ends it. -/
theorem silentBusEndsAtTheFirstByte : Obligations.SilentBusEndsAtTheFirstByte := by
  intro s hq hb ha
  have accepted (i : Instr) : Silent (s.accept (encode i)) := ⟨hq, hb, ha⟩
  refine ⟨fun addr rd => ?_, fun dev ch value hch hvalue hvalid => ?_, fun dev sel hsel => ?_,
    fun voice role value hvoice hvalue hvalid => ?_, ?_, ?_⟩
  · obtain ⟨t, ht, herr, -, hbytes⟩ :=
      EndsUnanswered.exec (i := .start addr rd) (((accepted _).goto .prim).busStart 0 addr rd)
    exact ⟨t, ht, herr, hbytes⟩
  · obtain ⟨t, ht, herr, -, hbytes⟩ := EndsUnanswered.exec (i := .setch dev ch value)
      ((accepted _).setchSteps (setchRejects_eq_false hch hvalue hvalid))
    exact ⟨t, ht, herr, hbytes⟩
  · obtain ⟨t, ht, herr, -, hbytes⟩ :=
      EndsUnanswered.exec (i := .devinit dev sel) ((accepted _).devinitSteps _ dev hsel)
    exact ⟨t, ht, herr, hbytes.trans (List.append_assoc ..).symm⟩
  · obtain ⟨t, ht, herr, -, hbytes⟩ := EndsUnanswered.exec (i := .pset voice role value)
      ((accepted _).psetSteps (voiceOutOfRange_eq_false hvoice)
        (setchRejects_eq_false (roleChannel_le role) hvalue hvalid))
    exact ⟨t, ht, herr, hbytes⟩
  · have result := (chkackResult s hq).err_and_bytes
    rwa [ha, dataCondition_boundary hb] at result
  · obtain ⟨t, ht, herr, hdev, hbytes⟩ := EndsUnanswered.exec (i := .pinit) ((accepted _).pinitSteps _)
    exact ⟨t, ht, herr, hdev, hbytes.trans (List.append_assoc ..).symm⟩

end Sys2Proof

/-! The fields of the wire bytes (R113 to R118, R66, R182). -/

namespace Sys2Proof.Machine

theorem channelByte1_value (v : ChanValue) : (channelByte1 v).extractLsb' 0 4 = v.extractLsb' 8 4 := by
  ext i hi
  simp only [channelByte1, BitVec.getElem_extractLsb']
  interval_cases i <;> simp

theorem channelByte1_marker (v : ChanValue) : (channelByte1 v).extractLsb' 4 4 = 0x8 := by
  ext i hi
  simp only [channelByte1, BitVec.getElem_extractLsb']
  interval_cases i <;> simp

theorem channelByte2_eq (v : ChanValue) : channelByte2 v = v.extractLsb' 0 8 := by
  ext i hi
  simp only [channelByte2]
  interval_cases i <;> simp

/-- The low nibble of the first value byte and the second value byte are the value. -/
theorem channelBytes_value (v : ChanValue) : (channelByte1 v).extractLsb' 0 4 ++ channelByte2 v = v := by
  rw [channelByte1_value, channelByte2_eq]
  exact (BitVec.extractLsb'_append_extractLsb'_eq_extractLsb' (start₂ := 8) rfl).trans BitVec.extractLsb'_eq_self

theorem channelByte0_eq (k : Idx) : channelByte0 k = 0x08#5 ++ k ++ 0#1 := by revert k; decide

theorem selectorBytes_eq (a : Selector) : readdressByte0 a = 0x3#3 ++ a ++ 0x1#2 ∧
    readdressByte1 a = 0x3#3 ++ a ++ 0x2#2 ∧ readdressByte2 a = 0x3#3 ++ a ++ 0x3#2 ∧ deviceAddr a = 0xC#4 ++ a := by
  revert a; decide

theorem addressByte_toNat (a : BusAddr) (rd : Bool) : (addressByte a rd).toNat = 2 * a.toNat + rd.toNat := by
  have readBit : (BitVec.ofBool rd).toNat < 2 ^ 1 := (BitVec.ofBool rd).isLt
  rw [addressByte, BitVec.toNat_append, ← Nat.shiftLeft_add_eq_or_of_lt readBit, Nat.shiftLeft_eq, BitVec.toNat_ofBool]
  omega

end Sys2Proof.Machine

namespace Sys2Proof

open Machine

/-- Settles O54: the 256 bytes are a small closed case. -/
theorem eightReadbackBytesAreValid : Obligations.EightReadbackBytesAreValid := by
  unfold Obligations.EightReadbackBytesAreValid
  decide

/-- Settles O55, byte by byte. -/
theorem wireBytesCarryTheirFields : Obligations.WireBytesCarryTheirFields :=
  ⟨fun v => ⟨channelBytes_value v, channelByte1_marker v⟩, channelByte0_eq, selectorBytes_eq, addressByte_toNat⟩

end Sys2Proof

/-! SETCH with the port left alone (R186, R188). -/

namespace Sys2Proof.Machine

/-- A part of a command that ends it, with these registers: nothing of the command follows. -/
def Ends (r : Except State State) (pins : Pins) (status : Status) (rdata : Byte) (devs : Devices) (path : Datapath)
    (io : Io) : Prop :=
  ∃ t, r = .error t ∧ Completes (.next t) pins status rdata devs path io

section

variable {r : Except State State} {pins : Pins} {status : Status} {rdata : Byte} {devs : Devices} {path : Datapath}
  {io : Io}

theorem Ends.bind (h : Ends r pins status rdata devs path io) (f : State → Except State State) :
    Ends (r >>= f) pins status rdata devs path io := by
  obtain ⟨t, rfl, ht⟩ := h
  exact ⟨t, rfl, ht⟩

theorem Ends.completes (h : Ends r pins status rdata devs path io) :
    Completes (finish r) pins status rdata devs path io := by
  obtain ⟨t, rfl, ht⟩ := h
  exact ht

/-- The end by an abort in the state `v` (R245). -/
theorem ends_endWith {v : State} {e : ErrCode} {who : Idx} (hdrop : v.status.drop = false) (hpins : v.pins = pins)
    (hrdata : v.rdata = rdata) (hdevs : v.devs = devs) (hpath : v.path = path) (hio : v.io = io) :
    Ends (.error (v.endWith e who)) pins (endStatus e who) rdata devs path io := by
  subst hpins hrdata hdevs hpath hio
  exact ⟨_, rfl, completes_endWith hdrop e who⟩

end

/-- SC1 has loaded the operand registers, and SC2 begins. -/
def State.loaded (s : State) (dev ch : Idx) (value : ChanValue) : State :=
  (((s.goto (.sc 0)).goto (.sc 1)).setOperands dev ch value (vget s.devs.addr dev)).goto (.sc 2)

theorem setchRejects_eq_true {dev : Idx} {ch : BitVec 4} {value : BitVec 16} {s : State}
    (h : 3 < ch.toNat ∨ 4095 < value.toNat ∨ vget s.devs.valid dev = false) : setchRejects dev ch value s = true := by
  obtain h | h | h := h
  · have channel : channelOutOfRange ch = true := decide_eq_true (BitVec.lt_def.2 h)
    rw [setchRejects, channel, Bool.true_or, Bool.true_or]
  · have range : valueOutOfRange value = true := decide_eq_true (BitVec.lt_def.2 h)
    rw [setchRejects, range, Bool.or_true, Bool.true_or]
  · rw [setchRejects, h, Bool.not_false, Bool.or_true]

section

variable {s : State} (h : s.quiet = true) {dev : Idx} {ch : BitVec 4} {value : BitVec 16}
include h

theorem setchSteps_rejected (hr : setchRejects dev ch value s = true) :
    setchSteps dev ch value s = .error ((s.goto (.sc 0)).endWith .reject dev) := by
  rw [setchSteps, if_pos (by exact hr), raise_quiet (by exact h)]

/-- SC2 is the channel write of the operand registers. -/
theorem setchSteps_accepted (hr : setchRejects dev ch value s = false) :
    setchSteps dev ch value s = channelWrite dev (ch.extractLsb' 0 2) (value.extractLsb' 0 12)
      (s.loaded dev (ch.extractLsb' 0 2) (value.extractLsb' 0 12)) := by
  rw [setchSteps, if_neg (by exact ne_true_of_eq_false hr), serve_quiet (by exact h),
    BitVec.setWidth_eq_extractLsb' (by decide), BitVec.setWidth_eq_extractLsb' (by decide)]
  rfl

/-- The n-th check of a channel write is the first that is not acknowledged: the command ends there. -/
theorem channelWrite_ends (hdrop : s.status.drop = false) (d k : Idx) (v : ChanValue) {n : Nat} (hn : n < 4)
    (ha : s.io.firstNack 0 n) :
    let bytes := channelBytes (addressByte (vget s.devs.addr d) false) k v
    Ends (channelWrite d k v s) s.pins.held (endStatus .noAck d) s.rdata s.devs
      { s.path with shreg := bytes.getD n 0, smp := true, dly := 0 }
      (s.io.after (n + 1) (lineOfNack bytes n) (dataCondition s.pins true ++ wireOfNack bytes n)) := by
  obtain ⟨t, ht, hpins, hstatus, hrdata, hdevs, hpath, hmpc, hio⟩ := channelWrite_quiet_nack h d k v hn ha
  have status : t.status = endStatus .noAck d := by simp [hstatus, hdrop, endStatus]
  exact ⟨t, ht, t, rfl, hpins, status, hrdata, hdevs, hpath, hmpc, hio⟩

/-- A SETCH that SC0 does not reject, with every check acknowledged. -/
theorem setchSteps_completes (hdrop : s.status.drop = false) (hr : setchRejects dev ch value s = false)
    (ha : ∀ j < 4, s.io.answer j = false) :
    let a := addressByte (vget s.devs.addr dev) false
    let k := ch.extractLsb' 0 2
    let v := value.extractLsb' 0 12
    Completes (finish (setchSteps dev ch value s)) s.pins.idle (endStatus .ok 0) s.rdata (s.devs.withCell dev k v)
      { s.path with
        shreg := v.extractLsb' 0 8, smp := false, dly := 0
        opDev := dev, opCh := k, opVal := v, opAddr := vget s.devs.addr dev }
      (s.io.after 4 (lineOfChannelWrite a k v) (dataCondition s.pins true ++ wireOfChannelWrite a k v)) := by
  intro a k v
  have write := channelWrite_quiet_acked (s := s.loaded dev k v) h dev k v ha
  rw [setchSteps_accepted h hr, write, channelByte2_eq]
  exact completes_ok h hdrop

/-- A SETCH that SC0 does not reject, whose n-th check is the first that is not acknowledged. -/
theorem setchSteps_ends (hdrop : s.status.drop = false) (hr : setchRejects dev ch value s = false) {n : Nat}
    (hn : n < 4) (ha : s.io.firstNack 0 n) :
    let k := ch.extractLsb' 0 2
    let v := value.extractLsb' 0 12
    let bytes := channelBytes (addressByte (vget s.devs.addr dev) false) k v
    Ends (setchSteps dev ch value s) s.pins.held (endStatus .noAck dev) s.rdata s.devs
      { s.path with
        shreg := bytes.getD n 0, smp := true, dly := 0
        opDev := dev, opCh := k, opVal := v, opAddr := vget s.devs.addr dev }
      (s.io.after (n + 1) (lineOfNack bytes n) (dataCondition s.pins true ++ wireOfNack bytes n)) := by
  intro k v bytes
  rw [setchSteps_accepted h hr]
  exact channelWrite_ends (s := s.loaded dev k v) h hdrop dev k v hn ha

end

end Sys2Proof.Machine

namespace Sys2Proof

open Machine

/-- Settles O23: SC0 rejects before any micro-op. -/
theorem setchRejects : Obligations.SetchRejects := by
  intro s dev ch value hq hr
  have steps := setchSteps_rejected (s := s.accept (encode (.setch dev ch value))) hq (setchRejects_eq_true hr)
  rw [exec_eq, commandSteps, steps]
  exact completes_endWith (v := (s.accept _).goto (.sc 0)) rfl .reject dev

/-- Settles O24: SC2 is a channel write whose checks are all acknowledged. -/
theorem setchWritesTheChannel : Obligations.SetchWritesTheChannel := by
  intro s dev ch value hq hch hvalue hvalid ha
  rw [exec_eq]
  exact setchSteps_completes (s := s.accept (encode (.setch dev ch value))) hq rfl
    (setchRejects_eq_false hch hvalue hvalid) ha

/-- Settles O25: SC2 is a channel write that ends at its first check that is not acknowledged. -/
theorem setchEndsAtTheFirstNack : Obligations.SetchEndsAtTheFirstNack := by
  intro s dev ch value n hq hch hvalue hvalid hn ha
  rw [exec_eq]
  exact (setchSteps_ends (s := s.accept (encode (.setch dev ch value))) hq rfl
    (setchRejects_eq_false hch hvalue hvalid) hn ha).completes

/-- Settles O26: DI0 rejects before `valid` is cleared. -/
theorem devinitRejectsSelectorZero : Obligations.DevinitRejectsSelectorZero := by
  intro s dev hq
  have steps := devinitSteps_zero (s := s.accept (encode (.devinit dev 0))) hq Config.params.check dev
  rw [exec_eq, commandSteps, steps]
  exact completes_endWith (v := (s.accept _).goto (.di 0)) rfl .reject dev

end Sys2Proof

/-! A transaction that ends at its first check that is not acknowledged, with the port left alone (R151, R245). -/

namespace Sys2Proof.Machine

/-- A part of a command, begun in `s`, that ends it with NO_ACK of the device `who`: the bus held, the latches at
`ldac`, the byte `b` not acknowledged, `k` samples taken. -/
def EndsUnacked (s : State) (who : Idx) (ldac : Vector Bool 4) (b : Byte) (k : Nat) (line : List LineEvent)
    (wire : List WireEvent) (r : Except State State) : Prop :=
  Ends r { s.pins.held with ldac := ldac } (endStatus .noAck who) s.rdata s.devs
    { s.path with shreg := b, smp := true, dly := 0 } (s.io.after k line wire)

theorem latchEdge_of_high {p : Pins} {d : Idx} (h : vget p.ldac d = true) : latchEdge p d false = [.latchFell d] := by
  rw [latchEdge, h]; rfl

/-- With the clock low, a move of the data line makes no condition (R136). -/
theorem dataCondition_of_low {p : Pins} (h : p.scl = false) (v : Bool) : dataCondition p v = [] := by
  rw [dataCondition, h]; rfl

@[simp] theorem afterStart_answer (s : State) (a : Byte) (n : Nat) :
    (s.afterStart a).io.answer n = s.io.answer (1 + n) := Io.after_answer ..

@[simp] theorem afterWrite_answer (s : State) (b : Byte) (n : Nat) : (s.afterWrite b).io.answer n = s.io.answer n := by
  rw [State.afterWrite, Io.after_answer, Nat.zero_add]

@[simp] theorem afterWriteLatch_answer (s : State) (b : Byte) (d : Idx) (n : Nat) :
    (s.afterWriteLatch b d).io.answer n = s.io.answer n := by
  rw [State.afterWriteLatch, Io.after_answer, Nat.zero_add]

@[simp] theorem afterCheckAck_answer (s : State) (n : Nat) : s.afterCheckAck.io.answer n = s.io.answer (1 + n) :=
  Io.after_answer ..

@[simp] theorem dataCondition_afterCheckAck (s : State) (v : Bool) : dataCondition s.afterCheckAck.pins v = [] := rfl

section

variable {s : State} {who d : Idx} {ldac : Vector Bool 4} {b x : Byte} {k : Nat} {line : List LineEvent}
  {wire : List WireEvent} {r : Except State State} {f : State → Except State State} {l : Label}

theorem EndsUnacked.bind (h : EndsUnacked s who ldac b k line wire r) (f : State → Except State State) :
    EndsUnacked s who ldac b k line wire (r >>= f) := Ends.bind h f

/-- The same from `s` on, `t` being `s` after `n` samples with the traces `l` and `w`. -/
theorem EndsUnacked.after {t : State} (h : EndsUnacked t who ldac b k line wire r) {n : Nat} {l : List LineEvent}
    {w : List WireEvent} (io : t.io = s.io.after n l w) (rdata : t.rdata = s.rdata := by rfl)
    (devs : t.devs = s.devs := by rfl)
    (path : { t.path with shreg := b, smp := true, dly := 0 } =
      { s.path with shreg := b, smp := true, dly := 0 } := by rfl) :
    EndsUnacked s who ldac b (n + k) (l ++ line) (w ++ wire) r := by
  unfold EndsUnacked at h
  rwa [path, io, Io.after_after, rdata, devs] at h

theorem EndsUnacked.congr (h : EndsUnacked s who ldac b k line wire r) {k' : Nat} {line' : List LineEvent}
    {wire' : List WireEvent} (hline : line = line') (hwire : wire = wire') (hk : k = k' := by rfl) :
    EndsUnacked s who ldac b k' line' wire' r := hk ▸ hline ▸ hwire ▸ h

/-! For each part of a transaction: `_ends`, its check is not acknowledged; `_goesOn`, it has none or it is
acknowledged, and the rest `f` ends the command. The samples and the traces add up. -/

theorem busStart_ends (ha : s.io.answer 0 = true) {addr : BusAddr} {rd : Bool}
    (hdrop : s.status.drop = false := by assumption)
    (h : s.quiet = true := by assumption) :
    EndsUnacked s who s.pins.ldac (addressByte addr rd) 1 (lineOfStart (addressByte addr rd) true)
      (dataCondition s.pins true ++ [.start, .wrote (addressByte addr rd), .nack])
      (busStart who addr rd (s.goto l)) := by
  rw [busStart_quiet (by exact h), if_pos (by exact ha)]
  refine ends_endWith hdrop rfl rfl rfl ?_ ?_ <;> simp [State.afterStart, ha]

theorem busStart_goesOn (ha : s.io.answer 0 = false) {addr : BusAddr} {rd : Bool}
    (hf : EndsUnacked ((s.goto l).afterStart (addressByte addr rd)) who ldac b k line wire
      (f ((s.goto l).afterStart (addressByte addr rd))))
    (h : s.quiet = true := by assumption) :
    EndsUnacked s who ldac b (1 + k) (lineOfStart (addressByte addr rd) false ++ line)
      (dataCondition s.pins true ++ [.start, .wrote (addressByte addr rd), .ack] ++ wire)
      (busStart who addr rd (s.goto l) >>= f) := by
  rw [busStart_quiet (by exact h), if_neg (ne_true_of_eq_false (by exact ha))]
  refine hf.after ?_
  simp [State.afterStart, ha]

/-! Inside a transaction the clock is low. -/

theorem busCheckAck_ends (ha : s.io.answer 0 = true) (hdrop : s.status.drop = false := by assumption)
    (h : s.quiet = true := by assumption) (hscl : s.pins.scl = false := by rfl) :
    EndsUnacked s who s.pins.ldac s.path.shreg 1 (lineOfCheckAck true) [.nack] (busCheckAck who (s.goto l)) := by
  rw [busCheckAck_quiet (by exact h), if_pos (by exact ha)]
  refine ends_endWith hdrop rfl rfl rfl ?_ ?_ <;> simp [State.afterCheckAck, ha, dataCondition_of_low hscl]

theorem busCheckAck_goesOn (ha : s.io.answer 0 = false)
    (hf : EndsUnacked (s.goto l).afterCheckAck who ldac b k line wire (f (s.goto l).afterCheckAck))
    (h : s.quiet = true := by assumption) (hscl : s.pins.scl = false := by rfl) :
    EndsUnacked s who ldac b (1 + k) (lineOfCheckAck false ++ line) (.ack :: wire)
      (busCheckAck who (s.goto l) >>= f) := by
  rw [busCheckAck_quiet (by exact h), if_neg (ne_true_of_eq_false (by exact ha))]
  refine hf.after (w := [.ack]) ?_
  simp [State.afterCheckAck, ha, dataCondition_of_low hscl]

theorem busWrite_goesOn (hf : EndsUnacked ((s.goto l).afterWrite x) who ldac b k line wire
      (f ((s.goto l).afterWrite x)))
    (h : s.quiet = true := by assumption) (hscl : s.pins.scl = false := by rfl) :
    EndsUnacked s who ldac b (0 + k) (lineOfWrite x ++ line) (.wrote x :: wire) (busWrite x (s.goto l) >>= f) := by
  rw [busWrite_quiet (by exact h)]
  refine hf.after (w := [.wrote x]) ?_
  simp [State.afterWrite, dataCondition_of_low hscl]

theorem busWriteLatch_goesOn (hf : EndsUnacked ((s.goto l).afterWriteLatch x d) who ldac b k line wire
      (f ((s.goto l).afterWriteLatch x d))) (hl : vget s.pins.ldac d = true := by assumption)
    (h : s.quiet = true := by assumption) (hscl : s.pins.scl = false := by rfl) :
    EndsUnacked s who ldac b (0 + k) (lineOfWriteLatch x d ++ line) (.latchFell d :: .wrote x :: wire)
      (busWriteLatch x d (s.goto l) >>= f) := by
  rw [busWriteLatch_quiet (by exact h)]
  refine hf.after (w := [.latchFell d, .wrote x]) ?_
  simp [State.afterWriteLatch, dataCondition_of_low hscl, latchEdge_of_high hl]

end

/-! The transactions of DEVINIT. -/

@[simp] theorem addressByte_generalCall : addressByte generalCall false = 0x00 := rfl
@[simp] theorem addressByte_defaultAddr : addressByte defaultAddr true = 0xC1 := rfl
@[simp] theorem addressByte_deviceAddr (sel : Selector) : addressByte (deviceAddr sel) false = deviceByte sel := rfl

section

variable {s : State} (h : s.quiet = true) (hdrop : s.status.drop = false) {dev : Idx}
  (hl : vget s.pins.ldac dev = true)
include h hdrop hl

/-- The n-th check of a discovery is the first that is not acknowledged. -/
theorem discover_ends {n : Nat} (hn : n < 3) (ha : s.io.firstNack 0 n) :
    EndsUnacked s dev (vset s.pins.ldac dev (n == 0)) ([0x00#8, 0x0C#8, 0xC1#8].getD n 0) (n + 1)
      (lineOfDiscoveryNack dev n).tail
      (dataCondition s.pins true ++ (wireOfDiscovery dev 0).take (3 * n + 2) ++ [.nack]) (discover dev s) := by
  have high : vset s.pins.ldac dev true = s.pins.ldac := hl ▸ vset_vget_self _ _
  obtain ⟨acked, nacked⟩ := ha
  simp only [Nat.zero_add] at acked nacked
  have cases : n = 0 ∨ n = 1 ∨ n = 2 := by omega
  unfold discover
  obtain rfl | rfl | rfl := cases
  · rw [beq_self_eq_true, high]
    refine ((busStart_ends nacked).bind _).congr rfl ?_
    simp [wireOfDiscovery]
  · have a0 := acked 0 (by decide)
    refine (busStart_goesOn a0 <| busWriteLatch_goesOn <|
      (busCheckAck_ends (by simpa using nacked)).bind _).congr ?_ ?_
    · simp [lineOfDiscoveryNack, discoveryByte]
    · simp [wireOfDiscovery, discoveryByte]
  · have a0 := acked 0 (by decide)
    have a1 := acked 1 (by decide)
    refine (busStart_goesOn a0 <| busWriteLatch_goesOn <| busCheckAck_goesOn (by simpa using a1) <|
      (busStart_ends (by simpa using nacked)).bind _).congr ?_ ?_
    · simp [lineOfDiscoveryNack, discoveryByte]
    · simp [wireOfDiscovery, discoveryByte]

/-- The n-th check of a re-addressing is the first that is not acknowledged. -/
theorem readdress_ends {cur : Selector} (hcur : s.path.curA = cur) (sel : Selector) {n : Nat} (hn : n < 4)
    (ha : s.io.firstNack 0 n) :
    EndsUnacked s dev (vset s.pins.ldac dev (n == 0))
      ([deviceByte cur, readdressByte0 cur, readdressByte1 sel, readdressByte2 sel].getD n 0) (n + 1)
      (lineOfReaddressNack dev cur sel n)
      (dataCondition s.pins true ++ (wireOfReaddress dev cur sel).take ([2, 5, 7, 9].getD n 0) ++ [.nack])
      (readdress dev sel s) := by
  subst hcur
  have high : vset s.pins.ldac dev true = s.pins.ldac := hl ▸ vset_vget_self _ _
  obtain ⟨acked, nacked⟩ := ha
  simp only [Nat.zero_add] at acked nacked
  have cases : n = 0 ∨ n = 1 ∨ n = 2 ∨ n = 3 := by omega
  unfold readdress
  obtain rfl | rfl | rfl | rfl := cases
  · rw [beq_self_eq_true, high]
    refine ((busStart_ends nacked).bind _).congr rfl ?_
    simp [wireOfReaddress]
  · have a0 := acked 0 (by decide)
    refine (busStart_goesOn a0 <| busWriteLatch_goesOn <|
      (busCheckAck_ends (by simpa using nacked)).bind _).congr ?_ ?_
    · simp [lineOfReaddressNack, State.afterStart]
    · simp [wireOfReaddress, State.afterStart]
  · have a0 := acked 0 (by decide)
    have a1 := acked 1 (by decide)
    refine (busStart_goesOn a0 <| busWriteLatch_goesOn <| busCheckAck_goesOn (by simpa using a1) <|
      busWrite_goesOn <| (busCheckAck_ends (by simpa using nacked)).bind _).congr ?_ ?_
    · simp [lineOfReaddressNack, State.afterStart]
    · simp [wireOfReaddress, State.afterStart]
  · have a0 := acked 0 (by decide)
    have a1 := acked 1 (by decide)
    have a2 := acked 2 (by decide)
    refine (busStart_goesOn a0 <| busWriteLatch_goesOn <| busCheckAck_goesOn (by simpa using a1) <|
      busWrite_goesOn <| busCheckAck_goesOn (by simpa using a2) <| busWrite_goesOn <|
      (busCheckAck_ends (by simpa using nacked)).bind _).congr ?_ ?_
    · simp [lineOfReaddressNack, lineOfAckedByte, State.afterStart]
    · simp [wireOfReaddress, State.afterStart]

end

end Sys2Proof.Machine

/-! The zeroing writes (R190, R194). -/

namespace Sys2Proof.Machine

@[simp] theorem Pins.idle_held (p : Pins) : p.idle.held = p.held := rfl

@[simp] theorem Pins.idle_scl (p : Pins) : p.idle.scl = true := rfl
@[simp] theorem Pins.idle_sda (p : Pins) : p.idle.sda = true := rfl

/-- On an idle bus the data line is released already. -/
@[simp] theorem dataCondition_idle (p : Pins) : dataCondition p.idle true = [] := rfl

@[simp] theorem dataCondition_released (c : Bool) (l : Vector Bool 4) : dataCondition ⟨c, true, l⟩ true = [] := by
  cases c <;> rfl

/-- The per-device registers after the zeroing writes of the channels `ks`. -/
def Devices.zeroed (c : Devices) (dev : Idx) (ks : List Idx) : Devices := ks.foldl (fun c k => c.withCell dev k 0) c

theorem zeroed_cons (c : Devices) (dev k : Idx) (ks : List Idx) :
    c.zeroed dev (k :: ks) = (c.withCell dev k 0).zeroed dev ks := rfl

@[simp] theorem withCell_addr (c : Devices) (d k : Idx) (x : ChanValue) : (c.withCell d k x).addr = c.addr := rfl

theorem withCell_cache (c : Devices) (dev k : Idx) (x : ChanValue) (d j : Idx) :
    vget (vget (c.withCell dev k x).cache d) j = if d = dev ∧ j = k then x else vget (vget c.cache d) j := by
  rw [Devices.withCell, vget_vset]
  by_cases hd : dev = d
  · subst hd
    rw [if_pos rfl, vget_vset]
    simp [eq_comm]
  · rw [if_neg hd, if_neg fun h => hd h.1.symm]

/-- A zeroing write changes cells of the cache of its device only. -/
theorem zeroed_eq (c : Devices) (dev : Idx) (ks : List Idx) :
    c.zeroed dev ks = { c with cache := (c.zeroed dev ks).cache } := by
  induction ks generalizing c with
  | nil => rfl
  | cons k ks ih => rw [zeroed_cons, ih]; rfl

theorem zeroed_cache (c : Devices) (dev : Idx) (ks : List Idx) (d j : Idx) :
    vget (vget (c.zeroed dev ks).cache d) j = if d = dev ∧ j ∈ ks then 0 else vget (vget c.cache d) j := by
  induction ks generalizing c with
  | nil => simp [Devices.zeroed]
  | cons k ks ih =>
    rw [zeroed_cons, ih, withCell_cache]
    by_cases hd : d = dev <;> by_cases hj : j = k <;> simp [hd, hj]

/-- The zeroing writes of the channels `ks`, in order. -/
def zeroEach (dev : Idx) (ks : List Idx) (s : State) : Except State State :=
  ks.foldlM (fun s k => zeroChannel dev k s) s

theorem zeroEach_cons (dev k : Idx) (ks : List Idx) (s : State) :
    zeroEach dev (k :: ks) s = zeroChannel dev k s >>= zeroEach dev ks := rfl

theorem zeroChannels_eq (dev : Idx) (s : State) : zeroChannels dev s = zeroEach dev [0, 1, 2, 3] s := by
  simp only [zeroChannels, zeroEach, List.foldlM, bind_pure]

/-- The checks counted from a later sample on. -/
theorem Io.firstNack.skip {io : Io} {base m n : Nat} (h : io.firstNack base (m + n)) : io.firstNack (base + m) n := by
  obtain ⟨acked, nacked⟩ := h
  rw [← Nat.add_assoc] at nacked
  refine ⟨fun j hj => ?_, nacked⟩
  rw [Nat.add_assoc]
  exact acked (m + j) (by omega)

theorem Io.firstNack.after {io : Io} {m n : Nat} (h : io.firstNack m n) (line : List LineEvent)
    (wire : List WireEvent) : (io.after m line wire).firstNack 0 n := by
  obtain ⟨acked, nacked⟩ := h
  refine ⟨fun j hj => ?_, ?_⟩
  · rw [Io.after_answer, Nat.zero_add]
    exact acked j hj
  · rw [Io.after_answer, Nat.zero_add]
    exact nacked

/-- After the zeroing write of channel `k`, its checks acknowledged. -/
def State.afterZeroing (dev k : Idx) (s : State) : State where
  pins := s.pins.idle
  status := s.status
  rdata := s.rdata
  devs := s.devs.withCell dev k 0
  path := { s.path with shreg := 0x00, smp := false, dly := 0, kloop := k }
  pos := { s.pos with mpc := .di 20, bit := 0, upc := 0, cwRet := .di 20 }
  io := s.io.after 4 (lineOfChannelWrite (addressByte (vget s.devs.addr dev) false) k 0)
    (dataCondition s.pins true ++ wireOfChannelWrite (addressByte (vget s.devs.addr dev) false) k 0)

theorem zeroChannel_acked {s : State} (h : s.quiet = true) (dev k : Idx) (ha : ∀ j < 4, s.io.answer j = false) :
    zeroChannel dev k s = .ok (s.afterZeroing dev k) :=
  channelWrite_quiet_acked (s := (s.goto (.di 20)).setKloop k) h dev k 0 ha

/-- Check `j` of the zeroing write of the k-th of the channels `ks` is the first that is not acknowledged. -/
theorem zeroEach_ends {s : State} (h : s.quiet = true) (hdrop : s.status.drop = false) {dev : Idx} {a : Byte}
    (haddr : addressByte (vget s.devs.addr dev) false = a) {ks : List Idx} {k j : Nat} (hk : k < ks.length)
    (hj : j < 4) (ha : s.io.firstNack 0 (4 * k + j)) :
    Ends (zeroEach dev ks s) s.pins.held (endStatus .noAck dev) s.rdata (s.devs.zeroed dev (ks.take k))
      { s.path with shreg := (channelBytes a ks[k] 0).getD j 0, smp := true, dly := 0, kloop := ks[k] }
      (s.io.after (4 * k + j + 1)
        ((ks.take k).flatMap (fun c => lineOfChannelWrite a c 0) ++ lineOfNack (channelBytes a ks[k] 0) j)
        (dataCondition s.pins true ++ ((ks.take k).flatMap (fun c => wireOfChannelWrite a c 0)
          ++ wireOfNack (channelBytes a ks[k] 0) j))) := by
  subst haddr
  induction ks generalizing s k with
  | nil => exact absurd hk (Nat.not_lt_zero k)
  | cons c ks ih =>
    rw [zeroEach_cons]
    cases k with
    | zero =>
      have write := channelWrite_ends (s := (s.goto (.di 20)).setKloop c) h hdrop dev c 0 hj (by simpa using ha)
      simpa [zeroChannel, Devices.zeroed] using write.bind (zeroEach dev ks)
    | succ k =>
      have acked : ∀ i < 4, s.io.answer i = false := fun i hi => by simpa using ha.1 i (by omega)
      have later : s.io.firstNack 0 (4 + (4 * k + j)) := by
        rwa [Nat.mul_succ, Nat.add_comm (4 * k) 4, Nat.add_assoc] at ha
      have rest := ih (s := s.afterZeroing dev c) h hdrop (Nat.lt_of_succ_lt_succ hk) (later.skip.after _ _)
      have samples : 4 + (4 * k + j + 1) = 4 * (k + 1) + j + 1 := by omega
      rw [zeroChannel_acked h dev c acked, run_ok_bind]
      simpa [State.afterZeroing, Io.after_after, samples, zeroed_cons] using rest

end Sys2Proof.Machine

/-! DEVINIT from DI1 on, with the port left alone (R190, R195). -/

namespace Sys2Proof.Machine

/-- DI1 to DI8 with the three checks acknowledged: the bus idle, the latch high, the byte read in RDATA and `rb`. -/
def State.afterDiscovery (dev : Idx) (s : State) : State where
  pins := { s.pins.idle with ldac := vset s.pins.ldac dev true }
  status := s.status
  rdata := s.io.readback 0
  devs := s.devs
  path := { s.path with shreg := s.io.readback 0, smp := false, dly := 0, rb := s.io.readback 0 }
  pos := { s.pos with mpc := .di 8, bit := 0, upc := 1 }
  io := s.io.after 11 (lineOfDiscovery dev (s.io.readback 0))
    (latchEdge s.pins dev true ++ dataCondition s.pins true ++ wireOfDiscovery dev (s.io.readback 0))

/-- DI9 with a valid readback byte. -/
def State.afterValidation (dev : Idx) (s : State) : State :=
  ((s.afterDiscovery dev).goto (.di 9)).setCurA (copyA (s.io.readback 0))

/-- DI10 to DI24, the steps behind the validation. -/
def settle (dev : Idx) (sel : Selector) (s : State) : Except State State := do
  let s ← readdressIfNeeded dev sel s
  let s ← serve (s.goto (.di 19))
  let s ← zeroChannels dev (s.setAddr dev (deviceAddr sel))
  let s ← commitPulse dev s
  let s ← serve (s.goto (.di 24))
  return s.setValid dev true

/-- Before DI20, every check acknowledged: the address is the target, the chip has the selector. -/
def State.readyToZero (dev : Idx) (sel : Selector) (s : State) : State where
  pins := { s.pins.idle with ldac := vset s.pins.ldac dev true }
  status := s.status
  rdata := s.io.readback 0
  devs := { s.devs with addr := vset s.devs.addr dev (deviceAddr sel) }
  path := { s.path with
    shreg := if copyA (s.io.readback 0) = sel then s.io.readback 0 else readdressByte2 sel
    smp := false, dly := 0, rb := s.io.readback 0, curA := copyA (s.io.readback 0) }
  pos := { s.pos with mpc := .di 19, bit := 0, upc := 0 }
  io := s.io.after (samplesToZeroing (s.io.readback 0) sel) (lineToZeroing dev (s.io.readback 0) sel)
    (wireToZeroing s.pins dev (s.io.readback 0) sel)

/-- DI1: the latch is high. -/
def State.raised (dev : Idx) (s : State) : State := (s.goto (.di 1)).afterOp (.ldac dev true)

theorem raised_ldac (dev : Idx) (s : State) : (s.raised dev).pins.ldac = vset s.pins.ldac dev true := rfl

theorem raised_io (dev : Idx) (s : State) :
    (s.raised dev).io = s.io.after 0 [.ldac dev true] (latchEdge s.pins dev true) := afterOp_ldac_io _ _ _

theorem lineOfDiscoveryNack_eq (dev : Idx) (n : Nat) :
    [.ldac dev true] ++ (lineOfDiscoveryNack dev n).tail = lineOfDiscoveryNack dev n := by
  match n with
  | 0 | 1 | _ + 2 => rfl

theorem samplesToZeroing_of_ne {rb : Byte} {sel : Selector} (hs : copyA rb ≠ sel) : samplesToZeroing rb sel = 15 :=
  if_neg hs

theorem readyToZero_condition (dev : Idx) (sel : Selector) (s : State) :
    dataCondition (s.readyToZero dev sel).pins true = [] := rfl

theorem readyToZero_after (dev : Idx) (sel : Selector) (s : State) (n : Nat) (line : List LineEvent)
    (wire : List WireEvent) : (s.readyToZero dev sel).io.after n line wire =
      s.io.after (samplesToZeroing (s.io.readback 0) sel + n) (lineToZeroing dev (s.io.readback 0) sel ++ line)
        (wireToZeroing s.pins dev (s.io.readback 0) sel ++ wire) := Io.after_after ..

theorem channels_getElem {k : Nat} (hk : k < 4) : ([0, 1, 2, 3] : List Idx)[k] = BitVec.ofNat 2 k := by
  match k, hk with
  | 0, _ | 1, _ | 2, _ | 3, _ => rfl

theorem mem_channels_take {k : Nat} (hk : k < 4) {c : Idx} : c ∈ ([0, 1, 2, 3] : List Idx).take k ↔ c.toNat < k := by
  have finite : ∀ k < 4, ∀ c : Idx, c ∈ ([0, 1, 2, 3] : List Idx).take k ↔ c.toNat < k := by decide
  exact finite k hk c

/-- On an idle bus a release of the data line makes no condition (R136). -/
theorem afterValidation_condition (dev : Idx) (s : State) :
    dataCondition (s.afterValidation dev).pins true = [] := rfl

theorem afterValidation_ldac (dev : Idx) (s : State) :
    (s.afterValidation dev).pins.ldac = vset s.pins.ldac dev true := rfl

theorem afterValidation_io (dev : Idx) (s : State) :
    (s.afterValidation dev).io = s.io.after 11 (lineOfDiscovery dev (s.io.readback 0))
      (latchEdge s.pins dev true ++ dataCondition s.pins true ++ wireOfDiscovery dev (s.io.readback 0)) := rfl

section

variable {s : State} (h : s.quiet = true) (c : Config.CheckBits) (dev : Idx) (sel : Selector)
include h

theorem constructDevice_raised : constructDevice c dev sel s =
    discover dev (s.raised dev) >>= fun s => validate c dev s >>= settle dev sel := by
  rw [constructDevice, latch_quiet (by exact h)]
  rfl

/-- A missing acknowledge in discovery ends DEVINIT there. -/
theorem constructDevice_ends_discovery (hdrop : s.status.drop = false) {n : Nat} (hn : n < 3)
    (ha : s.io.firstNack 0 n) :
    EndsUnacked s dev (vset s.pins.ldac dev (n == 0)) ([0x00#8, 0x0C#8, 0xC1#8].getD n 0) (n + 1)
      (lineOfDiscoveryNack dev n)
      (latchEdge s.pins dev true ++ dataCondition s.pins true ++ (wireOfDiscovery dev 0).take (3 * n + 2) ++ [.nack])
      (constructDevice c dev sel s) := by
  have nack : (s.raised dev).io.firstNack 0 n := by
    rw [raised_io]
    exact ha.after _ _
  have ends := discover_ends (s := s.raised dev) h hdrop (vget_vset_self _ _ _) hn nack
  rw [raised_ldac, vset_vset_self] at ends
  rw [constructDevice_raised h]
  refine ((ends.bind _).after (raised_io dev s)).congr (lineOfDiscoveryNack_eq dev n) ?_ (Nat.zero_add _)
  simp [dataCondition, State.raised, State.afterOp, State.perform]

/-- DI10 to DI18, every check acknowledged, and the new address of DI19. -/
theorem readdressIfNeeded_validated
    (ha : ∀ m, 11 ≤ m → m < samplesToZeroing (s.io.readback 0) sel → s.io.answer m = false) :
    ∃ t, readdressIfNeeded dev sel (s.afterValidation dev) = .ok t ∧ t.quiet = true ∧
      (t.goto (.di 19)).setAddr dev (deviceAddr sel) = s.readyToZero dev sel := by
  have acked (hs : copyA (s.io.readback 0) ≠ sel) (j : Nat) (hj : j < 4) :
      (s.afterValidation dev).io.answer j = false := by
    rw [afterValidation_io, Io.after_answer]
    exact ha _ (by omega) (by rw [samplesToZeroing_of_ne hs]; omega)
  rw [readdressIfNeeded_quiet_acked (s := s.afterValidation dev) h dev sel (vget_vset_self _ _ _) acked]
  refine ⟨_, rfl, ?_, ?_⟩
  · split <;> exact h
  by_cases hs : copyA (s.io.readback 0) = sel
  · rw [if_pos (by exact hs)]
    apply State.ext_groups <;>
      simp [State.readyToZero, State.afterValidation, State.afterDiscovery, hs, samplesToZeroing, lineToZeroing,
        wireToZeroing]
  · rw [if_neg (by exact hs)]
    apply State.ext_groups <;>
      simp [State.readyToZero, State.afterValidation, State.afterDiscovery, hs, samplesToZeroing, lineToZeroing,
        wireToZeroing, Io.after_after]

variable (hd : s.io.discovered 0)
include hd

theorem constructDevice_discovered :
    constructDevice c dev sel s = validate c dev (s.afterDiscovery dev) >>= settle dev sel := by
  have discovered : (s.raised dev).io.discovered 0 := by
    rw [raised_io]; simpa [Io.discovered, Io.after_answer] using hd
  have readback : (s.raised dev).io.readback 0 = s.io.readback 0 := by
    rw [raised_io]; simp [Io.readback, Io.after_answerByte]
  rw [constructDevice_raised h, discover_quiet_acked (s := s.raised dev) h dev (vget_vset_self _ _ _) discovered,
    run_ok_bind, readback, raised_io, Io.after_after, raised_ldac, vset_vset_self, ← List.append_assoc]
  rfl

/-- DI9 with a byte that fails the check bits (R184, R195). -/
theorem constructDevice_mismatched (hv : readbackValidWith c (s.io.readback 0) = false) :
    constructDevice c dev sel s = .error (((s.afterDiscovery dev).goto (.di 9)).endWith .addrMismatch dev) := by
  rw [constructDevice_discovered h c dev sel hd, validate, if_neg (by exact ne_true_of_eq_false hv),
    raise_quiet (by exact h)]
  rfl

variable (hv : readbackValidWith c (s.io.readback 0) = true)
include hv

theorem constructDevice_validated : constructDevice c dev sel s = settle dev sel (s.afterValidation dev) := by
  rw [constructDevice_discovered h c dev sel hd, validate, if_pos (by exact hv), serve_quiet (by exact h)]
  rfl

/-- A missing acknowledge in re-addressing ends DEVINIT there. -/
theorem constructDevice_ends_readdressing (hdrop : s.status.drop = false) (hne : copyA (s.io.readback 0) ≠ sel)
    {n : Nat} (hn : n < 4) (ha : s.io.firstNack 11 n) :
    let rb := s.io.readback 0
    let cur := copyA rb
    Ends (constructDevice c dev sel s) { s.pins.held with ldac := vset s.pins.ldac dev (n == 0) }
      (endStatus .noAck dev) rb s.devs
      { s.path with
        shreg := [deviceByte cur, readdressByte0 cur, readdressByte1 sel, readdressByte2 sel].getD n 0
        smp := true, dly := 0, rb := rb, curA := cur }
      (s.io.after (12 + n) (lineOfDiscovery dev rb ++ lineOfReaddressNack dev cur sel n)
        (latchEdge s.pins dev true ++ dataCondition s.pins true ++ wireOfDiscovery dev rb
          ++ (wireOfReaddress dev cur sel).take ([2, 5, 7, 9].getD n 0) ++ [.nack])) := by
  intro rb cur
  have ends := readdress_ends (s := (s.afterValidation dev).goto (.di 10)) h hdrop (vget_vset_self _ _ _)
    (cur := cur) rfl sel hn (ha.after _ _)
  rw [State.goto_pins, afterValidation_condition, afterValidation_ldac, vset_vset_self] at ends
  rw [constructDevice_validated h c dev sel hd hv, settle, readdressIfNeeded, serve_quiet (by exact h), run_ok_bind,
    if_neg (by exact hne)]
  have samples : 11 + (n + 1) = 12 + n := by omega
  refine Ends.bind ?_ _
  unfold EndsUnacked at ends
  rw [State.goto_io, afterValidation_io, Io.after_after, samples, List.nil_append,
    ← List.append_assoc] at ends
  exact ends

/-- Every check before the zeroing writes is acknowledged. -/
theorem constructDevice_zeroes
    (ha : ∀ m, 11 ≤ m → m < samplesToZeroing (s.io.readback 0) sel → s.io.answer m = false) :
    ∃ rest, constructDevice c dev sel s = zeroChannels dev (s.readyToZero dev sel) >>= rest := by
  obtain ⟨t, ht, hq, hready⟩ := readdressIfNeeded_validated h dev sel ha
  rw [constructDevice_validated h c dev sel hd hv, settle, ht, run_ok_bind, serve_quiet (by exact hq),
    run_ok_bind, hready]
  exact ⟨_, rfl⟩

/-- A missing acknowledge in a zeroing write ends DEVINIT there. -/
theorem constructDevice_ends_zeroing (hdrop : s.status.drop = false) {k j : Nat} (hk : k < 4) (hj : j < 4)
    (ha : ∀ m, 11 ≤ m → m < samplesToZeroing (s.io.readback 0) sel → s.io.answer m = false)
    (hn : s.io.firstNack (samplesToZeroing (s.io.readback 0) sel) (4 * k + j)) :
    let rb := s.io.readback 0
    let ch := BitVec.ofNat 2 k
    Ends (constructDevice c dev sel s) { s.pins.held with ldac := vset s.pins.ldac dev true } (endStatus .noAck dev) rb
      (Devices.zeroed { s.devs with addr := vset s.devs.addr dev (deviceAddr sel) } dev ([0, 1, 2, 3].take k))
      { s.path with
        shreg := (channelBytes (deviceByte sel) ch 0).getD j 0, smp := true, dly := 0
        rb := rb, curA := copyA rb, kloop := ch }
      (s.io.after (samplesToZeroing rb sel + 4 * k + j + 1)
        (lineToZeroing dev rb sel ++ lineOfZeroing sel k ++ lineOfNack (channelBytes (deviceByte sel) ch 0) j)
        (wireToZeroing s.pins dev rb sel ++ wireOfZeroing sel k
          ++ wireOfNack (channelBytes (deviceByte sel) ch 0) j)) := by
  intro rb ch
  obtain ⟨rest, hrest⟩ := constructDevice_zeroes h c dev sel hd hv ha
  have addr : addressByte (vget (s.readyToZero dev sel).devs.addr dev) false = deviceByte sel := by
    simp [State.readyToZero]
  have ends := zeroEach_ends (s := s.readyToZero dev sel) h hdrop addr (ks := [0, 1, 2, 3]) hk hj (hn.after _ _)
  rw [channels_getElem hk, readyToZero_condition, List.nil_append, readyToZero_after] at ends
  simp only [← List.append_assoc, ← Nat.add_assoc] at ends
  rw [hrest, zeroChannels_eq]
  exact ends.bind rest

/-- Every check is acknowledged. -/
theorem constructDevice_completes (hdrop : s.status.drop = false)
    (ha : ∀ j, 11 ≤ j → j < devinitSamples (s.io.readback 0) sel → s.io.answer j = false) :
    let rb := s.io.readback 0
    Completes (finish (constructDevice c dev sel s)) { s.pins.idle with ldac := vset s.pins.ldac dev true }
      (endStatus .ok 0) rb (s.devs.constructed dev sel)
      { s.path with shreg := 0x00, smp := false, dly := 0, rb := rb, curA := copyA rb, kloop := 3 }
      (s.io.after (devinitSamples rb sel) (lineOfDevinit dev rb sel) (wireOfDevinit s.pins dev rb sel)) := by
  intro rb
  obtain ⟨t, ht, hpins, hstatus, hrdata, hdevs, hpath, -, hio⟩ := constructDevice_quiet_acked h c dev sel hd hv ha
  have quiet : t.quiet = true := (quiet_of_port (by rw [hio]; rfl)).trans h
  have done := completes_ok quiet (by rw [hstatus]; exact hdrop)
  rwa [hpins, hrdata, hdevs, hpath, hio, ← ht] at done

end

/-! DEVINIT as a command. -/

/-- DI0 with a selector other than 0: the command is accepted, and the device is not valid. -/
def State.devinitBegun (dev : Idx) (sel : Selector) (s : State) : State :=
  ((s.accept (encode (.devinit dev sel))).goto (.di 0)).setValid dev false

theorem devinitWith_eq {s : State} (hq : s.quiet = true) (c : Config.CheckBits) (dev : Idx) {sel : Selector}
    (hsel : sel ≠ 0) : devinitWith c dev sel s = finish (constructDevice c dev sel (s.devinitBegun dev sel)) := by
  rw [devinitWith, devinitSteps, if_neg hsel, serve_quiet (by exact hq)]
  rfl

theorem exec_devinit {s : State} (hq : s.quiet = true) (dev : Idx) {sel : Selector} (hsel : sel ≠ 0) :
    exec (.devinit dev sel) s =
      finish (constructDevice Config.params.check dev sel (s.devinitBegun dev sel)) :=
  devinitWith_eq hq Config.params.check dev hsel

/-- DI0 clears `valid`, and DI24 sets it. -/
theorem devinitBegun_constructed (s : State) (dev : Idx) (sel : Selector) :
    (s.devinitBegun dev sel).devs.constructed dev sel = s.devs.constructed dev sel := by
  simp [State.devinitBegun, Devices.constructed]

end Sys2Proof.Machine

namespace Sys2Proof

open Machine

/-- Settles O27: DI0, then the steps of a construction, every check of which is acknowledged. -/
theorem devinitConstructsTheDevice : Obligations.DevinitConstructsTheDevice := by
  intro s dev sel hq hsel ⟨hd, hv, ha⟩
  simp only [Nat.zero_add] at ha
  have built := constructDevice_completes (s := s.devinitBegun dev sel) hq Config.params.check dev sel hd hv rfl ha
  rw [devinitBegun_constructed] at built
  rw [exec_devinit hq dev hsel]
  exact built

/-- Settles O28: DI9 is the step behind the discovery. -/
theorem devinitReportsAMismatch : Obligations.DevinitReportsAMismatch := by
  intro s dev sel hq hsel hd hv
  rw [exec_devinit hq dev hsel, constructDevice_mismatched (s := s.devinitBegun dev sel) hq _ dev sel hd hv]
  exact completes_endWith (v := ((s.devinitBegun dev sel).afterDiscovery dev).goto (.di 9)) rfl .addrMismatch dev

/-- Settles O29: DI2 to DI5 end the command. -/
theorem devinitNackInDiscovery : Obligations.DevinitNackInDiscovery := by
  intro s dev sel n hq hsel hn ha
  rw [exec_devinit hq dev hsel]
  exact Ends.completes (constructDevice_ends_discovery (s := s.devinitBegun dev sel) hq _ dev sel rfl hn ha)

/-- Settles O30: DI11 to DI17 end the command. -/
theorem devinitNackInReaddressing : Obligations.DevinitNackInReaddressing := by
  intro s dev sel n hq hsel hn hd hv hne ha
  rw [exec_devinit hq dev hsel]
  exact (constructDevice_ends_readdressing (s := s.devinitBegun dev sel) hq _ dev sel hd hv rfl hne hn ha).completes

/-- Settles O31: a turn of DI20 ends the command, and the turns before it have written the cache. -/
theorem devinitNackInZeroing : Obligations.DevinitNackInZeroing := by
  intro s dev sel k j hq hsel hk hj hd hv ha hn
  have ends := constructDevice_ends_zeroing (s := s.devinitBegun dev sel) hq Config.params.check dev sel hd hv rfl hk hj
    ha hn
  rw [zeroed_eq] at ends
  refine ⟨_, (exec_devinit hq dev hsel).symm ▸ ends.completes, fun d c => ?_⟩
  simp only [zeroed_cache, mem_channels_take hk]
  rfl

end Sys2Proof

/-! The errors that a step table can end with (R243, R245, R246), with the port left alone. -/

namespace Sys2Proof.Machine

/-- A part of a command that leaves the port alone, and that ends, if it does, with an error and a device of `E`. -/
def FailsWith (E : ErrCode → Idx → Prop) : Except State State → Prop :=
  Post (fun s => s.quiet = true) fun t => E t.status.err t.status.errDev

section

variable {E : ErrCode → Idx → Prop} {s : State} {dev : Idx}

theorem FailsWith.bind {r : Except State State} {f : State → Except State State} (h : FailsWith E r)
    (hf : ∀ s, s.quiet = true → FailsWith E (f s)) : FailsWith E (r >>= f) := Post.bind h hf

variable (h : s.quiet = true)
include h

theorem serve_failsWith : FailsWith E (serve s) := by
  rw [serve_quiet h]
  exact h

theorem runOps_failsWith (ms : List MicroOp) : FailsWith E (runOps ms s) := by
  rw [runOps_quiet h]
  exact (foldl_afterOp_quiet ms s).trans h

theorem raise_failsWith {e : ErrCode} (he : E e dev) : FailsWith E (raise e dev s) := by
  rw [raise_quiet h]
  exact he

theorem busWrite_failsWith (b : Byte) : FailsWith E (busWrite b s) := by
  rw [busWrite_quiet h]
  exact h

theorem busWriteLatch_failsWith (b : Byte) (d : Idx) : FailsWith E (busWriteLatch b d s) := by
  rw [busWriteLatch_quiet h]
  exact h

theorem busRead_failsWith (ack : Bool) : FailsWith E (busRead ack s) := by
  rw [busRead_quiet h]
  exact h

variable (he : E .noAck dev)
include he

theorem busCheckAck_failsWith : FailsWith E (busCheckAck dev s) := by
  rw [busCheckAck_quiet h]
  exact .ite he h

theorem busStart_failsWith (addr : BusAddr) (rd : Bool) : FailsWith E (busStart dev addr rd s) := by
  rw [busStart_quiet h]
  exact .ite he h

theorem channelWrite_failsWith (k : Idx) (v : ChanValue) : FailsWith E (channelWrite dev k v s) :=
  (busStart_failsWith (by exact h) he _ _).bind fun _ h => (busWrite_failsWith (by exact h) _).bind fun _ h =>
    (busCheckAck_failsWith (by exact h) he).bind fun _ h => (busWrite_failsWith (by exact h) _).bind fun _ h =>
    (busCheckAck_failsWith (by exact h) he).bind fun _ h => (busWrite_failsWith (by exact h) _).bind fun _ h =>
    (busCheckAck_failsWith (by exact h) he).bind fun _ h => (runOps_failsWith (by exact h) _).bind fun _ h =>
    (serve_failsWith (by exact h)).bind fun _ h => h

theorem discover_failsWith : FailsWith E (discover dev s) :=
  (busStart_failsWith (by exact h) he _ _).bind fun _ h => (busWriteLatch_failsWith (by exact h) _ dev).bind fun _ h =>
    (busCheckAck_failsWith (by exact h) he).bind fun _ h => (busStart_failsWith (by exact h) he _ _).bind fun _ h =>
    (busRead_failsWith (by exact h) false).bind fun _ h => (runOps_failsWith (by exact h) _).bind fun _ h =>
    runOps_failsWith (by exact h) _

theorem readdress_failsWith (sel : Selector) : FailsWith E (readdress dev sel s) :=
  (busStart_failsWith (by exact h) he _ _).bind fun _ h => (busWriteLatch_failsWith (by exact h) _ dev).bind fun _ h =>
    (busCheckAck_failsWith (by exact h) he).bind fun _ h => (busWrite_failsWith (by exact h) _).bind fun _ h =>
    (busCheckAck_failsWith (by exact h) he).bind fun _ h => (busWrite_failsWith (by exact h) _).bind fun _ h =>
    (busCheckAck_failsWith (by exact h) he).bind fun _ h => (runOps_failsWith (by exact h) _).bind fun _ h =>
    runOps_failsWith (by exact h) _

theorem zeroChannels_failsWith : FailsWith E (zeroChannels dev s) := by
  have turn {s : State} (h : s.quiet = true) (k : Idx) : FailsWith E (zeroChannel dev k s) :=
    channelWrite_failsWith (s := (s.goto (.di 20)).setKloop k) h he k 0
  exact (turn h 0).bind fun _ h => (turn h 1).bind fun _ h => (turn h 2).bind fun _ h => turn h 3

/-- Behind the validation DEVINIT can only end with NO_ACK. -/
theorem settle_failsWith (sel : Selector) : FailsWith E (settle dev sel s) := by
  have readdressed : FailsWith E (readdressIfNeeded dev sel s) :=
    (serve_failsWith (by exact h)).bind fun _ h => .ite h (readdress_failsWith h he sel)
  have pulsed {s : State} (h : s.quiet = true) : FailsWith E (commitPulse dev s) :=
    (runOps_failsWith (by exact h) _).bind fun _ h => (runOps_failsWith (by exact h) _).bind fun _ h =>
      runOps_failsWith (by exact h) _
  exact readdressed.bind fun _ h => (serve_failsWith (by exact h)).bind fun _ h =>
    (zeroChannels_failsWith (by exact h) he).bind fun _ h => (pulsed h).bind fun _ h =>
    (serve_failsWith (by exact h)).bind fun _ h => h

theorem constructDevice_failsWith (hm : E .addrMismatch dev) (c : Config.CheckBits) (sel : Selector) :
    FailsWith E (constructDevice c dev sel s) := by
  have validated {s : State} (h : s.quiet = true) : FailsWith E (validate c dev s) :=
    .ite ((serve_failsWith (by exact h)).bind fun _ h => h) (raise_failsWith (by exact h) hm)
  rw [constructDevice_raised h]
  exact (discover_failsWith (by exact h) he).bind fun _ h => (validated h).bind fun _ h => settle_failsWith h he sel

theorem panelDevice_failsWith (hm : E .addrMismatch dev) (c : Config.CheckBits) : FailsWith E (panelDevice c dev s) :=
  (constructDevice_failsWith (by exact h) he hm c _).bind fun _ h => h

end

/-- The end of a command whose steps can only end with an error of `E`. -/
theorem FailsWith.finish {E : ErrCode → Idx → Prop} {r : Except State State} (h : FailsWith E r) (hok : E .ok 0) :
    ∃ t, finish r = .next t ∧ E t.status.err t.status.errDev :=
  Post.finish h (fun s hs => by rw [complete_quiet hs]; exact hok) fun _ h => h

/-- R184: the validation fails exactly when the copies differ or the check bits do not have the required pattern. -/
theorem readbackValidWith_eq_false (c : Config.CheckBits) (rb : Byte) : readbackValidWith c rb = false ↔
    rb.extractLsb' 5 3 ≠ rb.extractLsb' 1 3 ∨ rb &&& c.mask ≠ c.value := by
  simp only [readbackValidWith, Bool.and_eq_false_iff, beq_eq_false_iff_ne]
  rfl

section

variable {s : State} (h : s.quiet = true) (c : Config.CheckBits) {dev : Idx} {sel : Selector} (hd : s.io.discovered 0)
include h hd

/-- Of the ends of which `M` is one, only DI9's can come about, if the rest `f` of the command has none of them. -/
theorem constructDevice_mismatch_iff {M : ErrCode → Idx → Prop} (hm : M .addrMismatch dev) (hack : ¬ M .noAck dev)
    (hok : ¬ M .ok 0) {f : State → Except State State}
    (hf : ∀ s, s.quiet = true → FailsWith (fun e who => ¬ M e who) (f s)) :
    ∃ t, finish (constructDevice c dev sel s >>= f) = .next t ∧
      (M t.status.err t.status.errDev ↔ readbackValidWith c (s.io.readback 0) = false) := by
  cases hv : readbackValidWith c (s.io.readback 0) with
  | false =>
    rw [constructDevice_mismatched h c dev sel hd hv]
    exact ⟨_, rfl, iff_of_true hm rfl⟩
  | true =>
    rw [constructDevice_validated h c dev sel hd hv]
    have steps := settle_failsWith (E := fun e who => ¬ M e who) (s := s.afterValidation dev) h hack sel
    obtain ⟨t, ht, hne⟩ := (steps.bind hf).finish hok
    exact ⟨t, ht, iff_of_false hne Bool.noConfusion⟩

end

/-! PINIT's first device. -/

/-- PI0 and the first turn of PI1 have begun: the latches are high, and no device is valid. -/
def State.pinitBegun (s : State) : State :=
  (((((s.accept (encode .pinit)).goto (.pi 0)).afterOp .ldacAll).clearAllValid.goto (.pi 1)).setDiRet (.pi 1)).setDloop 0

theorem pinitBegun_io (s : State) : s.pinitBegun.io = s.io.after 0 [.ldacAll] (wireOfPanelLatches s.pins) := by
  simp [State.pinitBegun, State.afterOp, State.perform, State.assignAllLdac, wireOfPanelLatches, Io.after]

theorem pinitWith_eq {s : State} (hq : s.quiet = true) (c : Config.CheckBits) :
    pinitWith c s = finish (constructDevice c 0 (panelSelector 0) s.pinitBegun >>= fun s =>
      panelDevice c 1 (s.goto s.pos.diRet) >>= fun s => panelDevice c 2 s >>= panelDevice c 3) := by
  rw [pinitWith, pinitSteps, runOps_quiet (by exact hq), run_ok_bind, panelDevice, run_bind_assoc]
  rfl

end Sys2Proof.Machine

namespace Sys2Proof

open Machine

/-- Settles O59: only DI9 ends a command with ADDR_MISMATCH, and its device is the one that is constructed. -/
theorem checkBitsDecideTheMismatch : Obligations.CheckBitsDecideTheMismatch := by
  refine ⟨fun c s dev sel hq hsel hd => ⟨?_, ?_⟩, fun s dev sel => ⟨rfl, rfl⟩⟩
  · have ends := constructDevice_mismatch_iff (s := s.devinitBegun dev sel) hq c (dev := dev) (sel := sel) hd
      (M := fun e _ => e = .addrMismatch) rfl nofun nofun (f := pure) fun s hs => hs
    rw [bind_pure, ← devinitWith_eq hq c dev hsel] at ends
    rwa [← readbackValidWith_eq_false]
  · have discovered : s.pinitBegun.io.discovered 0 := by
      rw [pinitBegun_io]; simpa [Io.discovered, Io.after_answer] using hd
    have readback : s.pinitBegun.io.readback 0 = s.io.readback 0 := by
      rw [pinitBegun_io]; simp [Io.readback, Io.after_answerByte]
    have later {s : State} (hs : s.quiet = true) {d : Idx} (hne : d ≠ 0) :
        FailsWith (fun e who => ¬ (e = .addrMismatch ∧ who = 0)) (panelDevice c d s) :=
      panelDevice_failsWith hs nofun (fun h => hne h.2) c
    have ends := constructDevice_mismatch_iff (s := s.pinitBegun) hq c (sel := panelSelector 0) discovered
      (M := fun e who => e = .addrMismatch ∧ who = 0) ⟨rfl, rfl⟩ nofun nofun
      (f := fun s => panelDevice c 1 (s.goto s.pos.diRet) >>= fun s => panelDevice c 2 s >>= panelDevice c 3)
      fun s hs => (later (by exact hs) (by decide)).bind fun s hs => (later hs (by decide)).bind fun s hs =>
        later hs (by decide)
    rw [← pinitWith_eq hq c, readback] at ends
    rwa [← readbackValidWith_eq_false]

end Sys2Proof

/-! PSET with the port left alone (R225, R226). -/

namespace Sys2Proof.Machine

/-- R225: a channel is that of one role only. -/
theorem roleChannel_injective : Function.Injective roleChannel :=
  (sub_right_injective (b := (3 : Idx))).comp (Function.LeftInverse.injective Role.ofCode_code)

/-- The channel that PS1 hands to SETCH's steps. -/
theorem roleChannel_eq (role : Role) : ((roleChannel role).setWidth 4).extractLsb' 0 2 = 3 - role.code := by
  cases role <;> rfl

/-- An accepted PSET whose voice is in range, where PS2 begins. -/
def State.psetMapped (voice : BitVec 4) (role : Role) (value : BitVec 16) (s : State) : State :=
  (((s.accept (encode (.pset voice role value))).goto (.ps 0)).goto (.ps 1)).goto (.ps 2)

section

variable {s : State} (h : s.quiet = true) {voice : BitVec 4} (role : Role) (value : BitVec 16)
include h

/-- PS0 with a voice above 3. -/
theorem psetSteps_outOfRange (hv : 3 < voice.toNat) :
    psetSteps voice role value s = .error ((s.goto (.ps 0)).endWith .reject 0) := by
  have range : voiceOutOfRange voice = true := decide_eq_true (BitVec.lt_def.2 hv)
  rw [psetSteps, if_pos range, raise_quiet (by exact h)]

/-- A voice in range: PS2 is SETCH's steps on the device of the voice and the channel of the role. -/
theorem exec_pset (hv : voice.toNat ≤ 3) :
    exec (.pset voice role value) s = finish (setchSteps (voice.extractLsb' 0 2) ((roleChannel role).setWidth 4) value
      (s.psetMapped voice role value)) := by
  rw [exec_eq, commandSteps, psetSteps, if_neg (ne_true_of_eq_false (voiceOutOfRange_eq_false hv)),
    serve_quiet (by exact h), BitVec.setWidth_eq_extractLsb' (by decide)]
  rfl

end

end Sys2Proof.Machine

namespace Sys2Proof

open Machine

/-- Settles O35: PS0 rejects a voice above 3, and SC0 what SETCH rejects. -/
theorem psetRejects : Obligations.PsetRejects := by
  intro s voice role value hq hr
  by_cases hv : 3 < voice.toNat
  · rw [if_pos hv, exec_eq, commandSteps, psetSteps_outOfRange (by exact hq) role value hv]
    exact completes_endWith (v := (s.accept _).goto (.ps 0)) rfl .reject 0
  · have steps := setchSteps_rejected (s := s.psetMapped voice role value) hq
      (setchRejects_eq_true (ch := (roleChannel role).setWidth 4) (.inr (hr.resolve_left hv)))
    rw [if_neg hv, exec_pset hq role value (by omega), steps]
    exact completes_endWith (v := (s.psetMapped voice role value).goto (.sc 0)) rfl .reject _

/-- Settles O36: channel `3 - role`, on the device of the voice's own number. -/
theorem rolesMapToChannels : Obligations.RolesMapToChannels := by
  refine ⟨rfl, rfl, rfl, rfl, fun v w r q h => ?_⟩
  obtain ⟨voice, channel⟩ := Prod.mk.inj h
  exact ⟨voice, roleChannel_injective channel⟩

/-- Settles O37: PS2 is SETCH of the role's channel, every check of which is acknowledged. -/
theorem psetWritesTheVoice : Obligations.PsetWritesTheVoice := by
  intro s voice role value hq hvoice hvalue hvalid ha
  have steps := setchSteps_completes (s := s.psetMapped voice role value) hq rfl
    (setchRejects_eq_false (roleChannel_le role) hvalue hvalid) ha
  rw [roleChannel_eq] at steps
  rw [exec_pset hq role value hvoice]
  exact steps

/-- Settles O38: PS2 is SETCH of the role's channel, which ends at its first check that is not acknowledged. -/
theorem psetEndsAtTheFirstNack : Obligations.PsetEndsAtTheFirstNack := by
  intro s voice role value n hq hvoice hvalue hvalid hn ha
  have steps := setchSteps_ends (s := s.psetMapped voice role value) hq rfl
    (setchRejects_eq_false (roleChannel_le role) hvalue hvalid) hn ha
  rw [roleChannel_eq] at steps
  rw [exec_pset hq role value hvoice]
  exact steps.completes

end Sys2Proof

/-! PINIT device by device, with the port left alone (R221, R222). -/

namespace Sys2Proof.Machine

theorem vset_eq_self {α : Type} {x : Vector α 4} {i : Idx} {a : α} (h : vget x i = a) : vset x i a = x :=
  h ▸ vset_vget_self x i

/-- The turns of PI1 for the devices `ds`, in order. -/
def panelEach (c : Config.CheckBits) (ds : List Idx) (s : State) : Except State State :=
  ds.foldlM (fun s d => panelDevice c d s) s

theorem panelEach_cons (c : Config.CheckBits) (d : Idx) (ds : List Idx) (s : State) :
    panelEach c (d :: ds) s = panelDevice c d s >>= panelEach c ds := rfl

theorem pinitSteps_eq (c : Config.CheckBits) (s : State) : pinitSteps c s =
    runOps [.ldacAll] (s.goto (.pi 0)) >>= fun s => panelEach c [0, 1, 2, 3] s.clearAllValid := by
  simp only [pinitSteps, panelEach, List.foldlM, bind_pure]

theorem drop_devices {n : Nat} (hn : n < 4) :
    ([0, 1, 2, 3] : List Idx).drop n = BitVec.ofNat 2 n :: ([0, 1, 2, 3] : List Idx).drop (n + 1) := by
  match n, hn with
  | 0, _ | 1, _ | 2, _ | 3, _ => rfl

/-- `Devices.panelUpTo` up to the whole panel: the registers with the first `n` devices constructed. -/
def Devices.panelled (c : Devices) (n : Nat) : Devices :=
  ([0, 1, 2, 3].take n).foldl (fun c d => c.constructed d (panelSelector d)) { c with valid := Vector.replicate 4 false }

theorem panelUpTo_eq (c : Devices) (f : Idx) : c.panelUpTo f = c.panelled f.toNat := rfl

theorem panelled_succ (c : Devices) {n : Nat} (hn : n < 4) :
    c.panelled (n + 1) = (c.panelled n).constructed (BitVec.ofNat 2 n) (panelSelector (BitVec.ofNat 2 n)) := by
  match n, hn with
  | 0, _ | 1, _ | 2, _ | 3, _ => rfl

theorem panelled_four (c : Devices) : c.panelled 4 = panelDevices := constructed_panel _

/-- `lineToPanelDevice` up to the whole panel. -/
def lineOfPanelled (io : Io) (n : Nat) : List LineEvent :=
  .ldacAll :: (List.range n).flatMap fun d =>
    lineOfDevinit (BitVec.ofNat 2 d) (io.panelReadback d) (panelSelector (BitVec.ofNat 2 d))

theorem lineToPanelDevice_eq (io : Io) (f : Idx) : lineToPanelDevice io f = lineOfPanelled io f.toNat := rfl

theorem lineOfPanelled_succ (io : Io) (n : Nat) : lineOfPanelled io (n + 1) = lineOfPanelled io n ++
    lineOfDevinit (BitVec.ofNat 2 n) (io.panelReadback n) (panelSelector (BitVec.ofNat 2 n)) := by
  simp [lineOfPanelled, List.range_succ]

/-- The byte trace of a PINIT, begun with the pins `p`, that has constructed the first `n` devices. -/
def wireOfPanelled (p : Pins) (io : Io) (n : Nat) : List WireEvent :=
  wireOfPanelLatches p ++ (if n = 0 then [] else dataCondition p true) ++ (List.range n).flatMap fun d =>
    wireOfDevinit restPins (BitVec.ofNat 2 d) (io.panelReadback d) (panelSelector (BitVec.ofNat 2 d))

/-- With its latch high, only the release of the data line tells a DEVINIT's start from one at rest. -/
theorem wireOfDevinit_of_high {p : Pins} {d : Idx} (h : vget p.ldac d = true) (rb : Byte) (sel : Selector) :
    wireOfDevinit p d rb sel = dataCondition p true ++ wireOfDevinit restPins d rb sel := by
  simp [wireOfDevinit, wireToZeroing, latchEdge, h, restPins]

/-- The pins that the first `n` devices of a PINIT leave: the latches high, and the bus idle behind the first. -/
def Pins.panelled (p : Pins) (n : Nat) : Pins :=
  { (if n = 0 then p else p.idle) with ldac := Vector.replicate 4 true }

theorem wireOfPanelled_succ (p : Pins) (io : Io) (n : Nat) : wireOfPanelled p io (n + 1) = wireOfPanelled p io n ++
    wireOfDevinit (p.panelled n) (BitVec.ofNat 2 n) (io.panelReadback n) (panelSelector (BitVec.ofNat 2 n)) := by
  rw [wireOfDevinit_of_high (vget_replicate _ _)]
  cases n <;> simp [wireOfPanelled, List.range_succ, Pins.panelled, dataCondition]

theorem after_constructs (io : Io) (n : Nat) (line : List LineEvent) (wire : List WireEvent) (sel : Selector) :
    (io.after n line wire).constructs 0 sel ↔ io.constructs n sel := by
  simp [Io.constructs, Io.discovered, Io.readback, Io.after_answer, Io.after_answerByte]

/-- PINIT from `s` has come to `v`, and has constructed the first `n` devices. -/
structure AtPanel (s : State) (n : Nat) (v : State) : Prop where
  quiet : v.quiet = true
  status : v.status = (s.accept (encode .pinit)).status
  pins : v.pins = s.pins.panelled n
  rdata : v.rdata = if n = 0 then s.rdata else s.io.panelReadback (n - 1)
  devs : v.devs = s.devs.panelled n
  path : v.path = if n = 0 then { s.path with cmdR := encode .pinit } else
    { s.path with
      cmdR := encode .pinit, shreg := 0x00, smp := false, dly := 0, rb := s.io.panelReadback (n - 1)
      curA := copyA (s.io.panelReadback (n - 1)), kloop := 3, dloop := BitVec.ofNat 2 (n - 1) }
  io : v.io = s.io.after (s.io.panelOffset n) (lineOfPanelled s.io n) (wireOfPanelled s.pins s.io n)

/-- A turn of PI1 begins. -/
def State.turnBegun (d : Idx) (s : State) : State := ((s.goto (.pi 1)).setDiRet (.pi 1)).setDloop d

/-- PI0. -/
theorem pinitSteps_begun {s : State} (hq : s.quiet = true) (c : Config.CheckBits) :
    ∃ v, AtPanel s 0 v ∧ pinitSteps c (s.accept (encode .pinit)) = panelEach c [0, 1, 2, 3] v := by
  refine ⟨(((s.accept (encode .pinit)).goto (.pi 0)).afterOp .ldacAll).clearAllValid, ?_, ?_⟩
  · refine ⟨hq, rfl, rfl, rfl, rfl, rfl, ?_⟩
    simp [State.afterOp, State.perform, State.assignAllLdac, lineOfPanelled, wireOfPanelled, wireOfPanelLatches,
      Io.panelOffset, Io.after]
  · rw [pinitSteps_eq, runOps_quiet (by exact hq)]
    rfl

@[simp] theorem turnBegun_pins (d : Idx) (s : State) : (s.turnBegun d).pins = s.pins := rfl
@[simp] theorem turnBegun_devs (d : Idx) (s : State) : (s.turnBegun d).devs = s.devs := rfl
@[simp] theorem turnBegun_path (d : Idx) (s : State) : (s.turnBegun d).path = { s.path with dloop := d } := rfl
@[simp] theorem turnBegun_io (d : Idx) (s : State) : (s.turnBegun d).io = s.io := rfl

/-- A turn of PI1 whose chip answers. -/
theorem AtPanel.turn {s v : State} {n : Nat} (h : AtPanel s n v) (hn : n < 4)
    (hc : s.io.constructs (s.io.panelOffset n) (panelSelector (BitVec.ofNat 2 n))) :
    ∃ t, panelDevice Config.params.check (BitVec.ofNat 2 n) v = .ok t ∧ AtPanel s (n + 1) t := by
  have readback : v.io.readback 0 = s.io.panelReadback n := by
    simp [h.io, Io.panelReadback, Io.readback, Io.after_answerByte]
  obtain ⟨discovered, valid, acked⟩ : v.io.constructs 0 (panelSelector (BitVec.ofNat 2 n)) := by
    rwa [h.io, after_constructs]
  simp only [Nat.zero_add] at acked
  obtain ⟨t, ht, hpins, hstatus, hrdata, hdevs, hpath, -, hio⟩ := constructDevice_quiet_acked
    (s := v.turnBegun (BitVec.ofNat 2 n)) h.quiet Config.params.check _ _ discovered valid acked
  simp only [turnBegun_pins, turnBegun_devs, turnBegun_path, turnBegun_io, readback] at hpins hrdata hdevs hpath hio
  have high : vset v.pins.ldac (BitVec.ofNat 2 n) true = Vector.replicate 4 true := by
    rw [h.pins]
    exact vset_eq_self (vget_replicate _ _)
  refine ⟨t.goto t.pos.diRet, congrArg (· >>= _) ht, (quiet_of_port (by simp [hio])).trans h.quiet,
    hstatus.trans h.status, hpins.trans ?_, hrdata, hdevs.trans ?_, hpath.trans ?_, hio.trans ?_⟩
  · rw [high, h.pins]
    cases n <;> rfl
  · rw [h.devs, panelled_succ _ hn]
  · rw [h.path]
    cases n <;> rfl
  · rw [h.pins, h.io, Io.after_after, ← lineOfPanelled_succ, ← wireOfPanelled_succ]
    rfl

/-- PINIT up to the turn of device `n`, the chips before it answering. -/
theorem pinitSteps_upTo {s : State} (hq : s.quiet = true) {n : Nat} (hn : n ≤ 4)
    (hc : ∀ d < n, s.io.constructs (s.io.panelOffset d) (panelSelector (BitVec.ofNat 2 d))) :
    ∃ v, AtPanel s n v ∧ pinitSteps Config.params.check (s.accept (encode .pinit)) =
      panelEach Config.params.check ([0, 1, 2, 3].drop n) v := by
  induction n with
  | zero => exact pinitSteps_begun hq _
  | succ n ih =>
    obtain ⟨v, hv, steps⟩ := ih (by omega) fun d hd => hc d (by omega)
    obtain ⟨t, turn, ht⟩ := hv.turn hn (hc n n.lt_succ_self)
    refine ⟨t, ht, ?_⟩
    rw [steps, drop_devices hn, panelEach_cons, turn, run_ok_bind]

end Sys2Proof.Machine

namespace Sys2Proof

open Machine

/-- Settles O32: after four turns of PI1 the panel is constructed. -/
theorem pinitBringsUpThePanel : Obligations.PinitBringsUpThePanel := by
  intro s hq hc
  obtain ⟨v, hv, steps⟩ := pinitSteps_upTo hq (Nat.le_refl 4) hc
  have done := completes_ok hv.quiet (by rw [hv.status]; rfl)
  rw [hv.pins, hv.rdata, hv.devs, hv.path, hv.io, panelled_four] at done
  rw [exec_eq, commandSteps, steps]
  exact done

end Sys2Proof

/-! How the construction of a device fails, with the port left alone (R195). -/

namespace Sys2Proof.Machine

/-- Of `n` checks, all are acknowledged or one is the first that is not. -/
theorem Io.acked_or_firstNack (io : Io) (base n : Nat) :
    (∀ j < n, io.answer (base + j) = false) ∨ ∃ m < n, io.firstNack base m := by
  induction n with
  | zero => exact .inl nofun
  | succ n ih =>
    obtain acked | ⟨m, hm, nack⟩ := ih
    · cases hn : io.answer (base + n) with
      | false => exact .inl fun j hj => (Nat.lt_succ_iff_lt_or_eq.1 hj).elim (acked j) (· ▸ hn)
      | true => exact .inr ⟨n, n.lt_succ_self, acked, hn⟩
    · exact .inr ⟨m, Nat.lt_succ_of_lt hm, nack⟩

/-- A token that moves no latch but that of `dev`. -/
def LineEvent.spares (dev : Idx) : LineEvent → Bool
  | .ldac d _ | .sclLdac d => d = dev
  | .ldacAll | .reset => false
  | .scl _ | .sda _ | .wait _ | .sample _ => true

section

variable (dev : Idx)

@[simp] theorem lineOfWrite_spares (b : Byte) : (lineOfWrite b).all (LineEvent.spares dev) = true := rfl
@[simp] theorem lineOfCheckAck_spares (b : Bool) : (lineOfCheckAck b).all (LineEvent.spares dev) = true := rfl
@[simp] theorem lineOfStart_spares (a : Byte) (b : Bool) : (lineOfStart a b).all (LineEvent.spares dev) = true := rfl
@[simp] theorem lineOfStop_spares : lineOfStop.all (LineEvent.spares dev) = true := rfl
@[simp] theorem lineOfAckedByte_spares (b : Byte) : (lineOfAckedByte b).all (LineEvent.spares dev) = true := rfl
@[simp] theorem lineOfRead_spares (r : Byte) (ack : Bool) : (lineOfRead r ack).all (LineEvent.spares dev) = true := rfl

@[simp] theorem lineOfChannelWrite_spares (a : Byte) (k : Idx) (v : ChanValue) :
    (lineOfChannelWrite a k v).all (LineEvent.spares dev) = true := by
  simp [lineOfChannelWrite]

@[simp] theorem lineOfWriteLatch_spares (b : Byte) : (lineOfWriteLatch b dev).all (LineEvent.spares dev) = true := by
  have high : (lineOfHighBits b).all (LineEvent.spares dev) = true := rfl
  simp [lineOfWriteLatch, high, lineOfLatchCell, LineEvent.spares]

@[simp] theorem lineOfNack_spares (bytes : List Byte) (n : Nat) :
    (lineOfNack bytes n).all (LineEvent.spares dev) = true := by
  have start : lineOfCondStart.all (LineEvent.spares dev) = true := rfl
  simp [lineOfNack, start]

@[simp] theorem lineOfDiscoveryNack_spares (n : Nat) :
    (lineOfDiscoveryNack dev n).all (LineEvent.spares dev) = true := by
  match n with
  | 0 | 1 | _ + 2 => simp [lineOfDiscoveryNack, LineEvent.spares]

@[simp] theorem lineOfReaddressNack_spares (cur sel : Selector) (n : Nat) :
    (lineOfReaddressNack dev cur sel n).all (LineEvent.spares dev) = true := by
  match n with
  | 0 | 1 | 2 | _ + 3 => simp [lineOfReaddressNack]

@[simp] theorem lineOfDiscovery_spares (rb : Byte) : (lineOfDiscovery dev rb).all (LineEvent.spares dev) = true := by
  simp [lineOfDiscovery, LineEvent.spares]

@[simp] theorem lineToZeroing_spares (rb : Byte) (sel : Selector) :
    (lineToZeroing dev rb sel).all (LineEvent.spares dev) = true := by
  unfold lineToZeroing
  split <;> simp [lineOfReaddress, LineEvent.spares]

@[simp] theorem lineOfZeroing_spares (sel : Selector) (n : Nat) :
    (lineOfZeroing sel n).all (LineEvent.spares dev) = true := by
  simp [lineOfZeroing]

end

/-- What the construction of a device leaves when it fails, and what it adds to the line trace. -/
structure Failure where
  err : ErrCode
  pins : Pins
  rdata : Byte
  devs : Devices
  line : List LineEvent

/-- The failure is one of R195: an error of device `dev`, which is as valid as before; the other devices are as
before, and their latches have not moved. -/
structure Failure.Of (x : Failure) (dev : Idx) (s : State) : Prop where
  err : x.err = .noAck ∨ x.err = .addrMismatch
  latch : ∀ d, d ≠ dev → vget x.pins.ldac d = vget s.pins.ldac d
  valid : vget x.devs.valid dev = vget s.devs.valid dev
  others : s.devs.AgreeExcept dev x.devs
  line : x.line.all (LineEvent.spares dev) = true

/-- Two states of running commands that the construction of a device cannot tell apart. -/
structure Alike (s s' : State) : Prop where
  quiet : s'.quiet = true
  drop : s'.status.drop = false
  pins : s'.pins = s.pins
  rdata : s'.rdata = s.rdata
  devs : s'.devs = s.devs
  answer : s'.io.answer = s.io.answer

theorem Alike.firstNack {s s' : State} (g : Alike s s') {base n : Nat} :
    s'.io.firstNack base n ↔ s.io.firstNack base n := by
  rw [Io.firstNack, g.answer]; rfl

theorem Alike.discovered {s s' : State} (g : Alike s s') {n : Nat} : s'.io.discovered n ↔ s.io.discovered n := by
  rw [Io.discovered, g.answer]; rfl

theorem Alike.readback {s s' : State} (g : Alike s s') (n : Nat) : s'.io.readback n = s.io.readback n := by
  rw [Io.readback, Io.answerByte, g.answer]; rfl

/-- The command that constructs `dev` in the state `s` ends there with the failure `x`. -/
def Failure.Ends (x : Failure) (dev : Idx) (s : State) (r : Except State State) : Prop :=
  ∃ path samples wire,
    Machine.Ends r x.pins (endStatus x.err dev) x.rdata x.devs path (s.io.after samples x.line wire)

theorem agreeExcept_refl (c : Devices) (dev : Idx) : c.AgreeExcept dev c := fun _ _ => ⟨rfl, rfl, rfl⟩

/-- The zeroing writes of a device, and its address, are no matter of the others. -/
theorem agreeExcept_zeroed (c : Devices) (dev : Idx) (a : BusAddr) (ks : List Idx) :
    c.AgreeExcept dev (Devices.zeroed { c with addr := vset c.addr dev a } dev ks) := by
  intro d hd
  refine ⟨by rw [zeroed_eq], by rw [zeroed_eq]; exact vget_vset_ne _ _ hd.symm, vec_ext fun k => ?_⟩
  rw [zeroed_cache, if_neg fun h => hd h.1]

section

variable (s : State) (c : Config.CheckBits) (dev : Idx) (sel : Selector)

/-- The construction of `dev` fails in every state like `s`, in the same way. -/
def ConstructionFails : Prop :=
  ∃ x : Failure, x.Of dev s ∧ ∀ s', Alike s s' → x.Ends dev s' (constructDevice c dev sel s')

theorem constructionFails_discovery {n : Nat} (hn : n < 3) (ha : s.io.firstNack 0 n) :
    ConstructionFails s c dev sel := by
  refine ⟨⟨.noAck, { s.pins.held with ldac := vset s.pins.ldac dev (n == 0) }, s.rdata, s.devs,
    lineOfDiscoveryNack dev n⟩, ⟨.inl rfl, fun d hd => vget_vset_ne _ _ hd.symm, rfl, agreeExcept_refl _ _, by simp⟩,
    fun s' g => ?_⟩
  have ends := constructDevice_ends_discovery g.quiet c dev sel g.drop hn (g.firstNack.2 ha)
  rw [EndsUnacked, g.pins, g.rdata, g.devs] at ends
  exact ⟨_, _, _, ends⟩

variable (hd : s.io.discovered 0)
include hd

theorem constructionFails_mismatch (hv : readbackValidWith c (s.io.readback 0) = false) :
    ConstructionFails s c dev sel := by
  refine ⟨⟨.addrMismatch, { s.pins.idle with ldac := vset s.pins.ldac dev true }, s.io.readback 0, s.devs,
    lineOfDiscovery dev (s.io.readback 0)⟩,
    ⟨.inr rfl, fun d hd => vget_vset_ne _ _ hd.symm, rfl, agreeExcept_refl _ _, by simp⟩, fun s' g => ?_⟩
  have ends := ends_endWith (v := (s'.afterDiscovery dev).goto (.di 9)) (e := .addrMismatch) (who := dev) g.drop
    rfl rfl rfl rfl rfl
  rw [← constructDevice_mismatched g.quiet c dev sel (g.discovered.2 hd) (by rwa [g.readback])] at ends
  simp only [State.goto_pins, State.goto_rdata, State.goto_devs, State.goto_io, State.afterDiscovery, g.readback,
    g.pins, g.devs] at ends
  exact ⟨_, _, _, ends⟩

variable (hv : readbackValidWith c (s.io.readback 0) = true)
include hv

theorem constructionFails_readdressing (hne : copyA (s.io.readback 0) ≠ sel) {n : Nat} (hn : n < 4)
    (ha : s.io.firstNack 11 n) : ConstructionFails s c dev sel := by
  refine ⟨⟨.noAck, { s.pins.held with ldac := vset s.pins.ldac dev (n == 0) }, s.io.readback 0, s.devs,
    lineOfDiscovery dev (s.io.readback 0) ++ lineOfReaddressNack dev (copyA (s.io.readback 0)) sel n⟩,
    ⟨.inl rfl, fun d hd => vget_vset_ne _ _ hd.symm, rfl, agreeExcept_refl _ _, by simp⟩, fun s' g => ?_⟩
  have ends := constructDevice_ends_readdressing g.quiet c dev sel (g.discovered.2 hd) (by rwa [g.readback]) g.drop
    (by rwa [g.readback]) hn (g.firstNack.2 ha)
  simp only [g.readback, g.pins, g.devs] at ends
  exact ⟨_, _, _, ends⟩

theorem constructionFails_zeroing
    (hacked : ∀ m, 11 ≤ m → m < samplesToZeroing (s.io.readback 0) sel → s.io.answer m = false) {k j : Nat}
    (hk : k < 4) (hj : j < 4) (ha : s.io.firstNack (samplesToZeroing (s.io.readback 0) sel) (4 * k + j)) :
    ConstructionFails s c dev sel := by
  refine ⟨⟨.noAck, { s.pins.held with ldac := vset s.pins.ldac dev true }, s.io.readback 0,
    Devices.zeroed { s.devs with addr := vset s.devs.addr dev (deviceAddr sel) } dev ([0, 1, 2, 3].take k),
    lineToZeroing dev (s.io.readback 0) sel ++ lineOfZeroing sel k ++
      lineOfNack (channelBytes (deviceByte sel) (BitVec.ofNat 2 k) 0) j⟩,
    ⟨.inl rfl, fun d hd => vget_vset_ne _ _ hd.symm, by rw [zeroed_eq], agreeExcept_zeroed _ _ _ _, by simp⟩,
    fun s' g => ?_⟩
  have ends := constructDevice_ends_zeroing g.quiet c dev sel (g.discovered.2 hd) (by rwa [g.readback]) g.drop hk hj
    (by rwa [g.readback, g.answer]) (by rwa [g.readback, g.firstNack])
  simp only [g.readback, g.pins, g.devs] at ends
  exact ⟨_, _, _, ends⟩

end

/-- A construction fails unless its chip answers: at a missing acknowledge or at the readback byte. -/
theorem constructionFails_of_not_constructs {s : State} (dev : Idx) {sel : Selector} (h : ¬ s.io.constructs 0 sel) :
    ConstructionFails s Config.params.check dev sel := by
  obtain hd | ⟨m, hm, nack⟩ := s.io.acked_or_firstNack 0 3
  case inr => exact constructionFails_discovery s _ dev sel hm nack
  cases hv : readbackValid (s.io.readback 0) with
  | false => exact constructionFails_mismatch s _ dev sel hd hv
  | true =>
    obtain hr | ⟨m, hm, nack⟩ := s.io.acked_or_firstNack 11 (samplesToZeroing (s.io.readback 0) sel - 11)
    case inr =>
      have hne : copyA (s.io.readback 0) ≠ sel := fun e => by simp [samplesToZeroing, e] at hm
      rw [samplesToZeroing_of_ne hne] at hm
      exact constructionFails_readdressing s _ dev sel hd hv hne hm nack
    have readdressed (m : Nat) (h11 : 11 ≤ m) (hm : m < samplesToZeroing (s.io.readback 0) sel) :
        s.io.answer m = false := by
      simpa [Nat.add_sub_cancel' h11] using hr (m - 11) (by omega)
    obtain hz | ⟨m, hm, nack⟩ := s.io.acked_or_firstNack (samplesToZeroing (s.io.readback 0) sel) 16
    case inr =>
      exact constructionFails_zeroing s _ dev sel hd hv readdressed (k := m / 4) (j := m % 4) (by omega) (by omega)
        (by rwa [Nat.div_add_mod])
    refine absurd ⟨hd, hv, fun j h11 hj => ?_⟩ h
    rw [Nat.zero_add]
    by_cases hj' : j < samplesToZeroing (s.io.readback 0) sel
    · exact readdressed j h11 hj'
    · simpa [Nat.add_sub_cancel' (Nat.le_of_not_lt hj')] using hz (j - samplesToZeroing (s.io.readback 0) sel) (by
        unfold devinitSamples at hj; omega)

end Sys2Proof.Machine

/-! A PINIT that fails, with the port left alone (R224). -/

namespace Sys2Proof.Machine

theorem exists_first_not_constructs {io : Io} (h : ¬ io.panelConstructs) : ∃ f : Idx,
    (∀ d < f.toNat, io.constructs (io.panelOffset d) (panelSelector (BitVec.ofNat 2 d))) ∧
    ¬ io.constructs (io.panelOffset f.toNat) (panelSelector f) := by
  classical
  unfold Io.panelConstructs at h
  push Not at h
  obtain ⟨hlt, hfails⟩ := Nat.find_spec h
  have index : (BitVec.ofNat 2 (Nat.find h)).toNat = Nat.find h := Nat.mod_eq_of_lt hlt
  refine ⟨BitVec.ofNat 2 (Nat.find h), fun d hd => ?_, by rwa [index]⟩
  rw [index] at hd
  by_contra hn
  exact Nat.find_min h hd ⟨hd.trans hlt, hn⟩

theorem deviceAddr_panelSelector (d : Idx) : deviceAddr (panelSelector d) = 0x61 + d.setWidth 7 := by
  revert d; decide

/-- R221: the devices below `n` are constructed, and the others are only not valid. -/
theorem panelled_device (c : Devices) {n : Nat} (hn : n ≤ 4) (d : Idx) :
    vget (c.panelled n).valid d = decide (d.toNat < n) ∧
    vget (c.panelled n).addr d = (if d.toNat < n then 0x61 + d.setWidth 7 else vget c.addr d) ∧
    vget (c.panelled n).cache d = if d.toNat < n then zeroRow else vget c.cache d := by
  induction n with
  | zero => exact ⟨vget_replicate _ _, rfl, rfl⟩
  | succ n ih =>
    have index : BitVec.ofNat 2 n = d ↔ d.toNat = n := by
      rw [← BitVec.toNat_inj, BitVec.toNat_ofNat, Nat.mod_eq_of_lt hn, eq_comm]
    obtain ⟨hvalid, haddr, hcache⟩ := ih (by omega)
    rw [panelled_succ _ hn]
    simp only [Devices.constructed, vget_vset, hvalid, haddr, hcache, index]
    by_cases hd : d.toNat = n
    · have index : BitVec.ofNat 2 n = d := index.2 hd
      simp [hd, index, deviceAddr_panelSelector]
    · have later : d.toNat < n + 1 ↔ d.toNat < n := by omega
      simp [hd, later]

theorem panelUpTo_valid_self (c : Devices) (f : Idx) : vget (c.panelUpTo f).valid f = false := by
  rw [panelUpTo_eq, (panelled_device c (by omega) f).1]
  simp

theorem atPanelDevice_pins (s : State) (f : Idx) : (s.atPanelDevice f).pins = s.pins.panelled f.toNat := by
  obtain rfl | rfl | rfl | rfl := idx_cases f <;> rfl

theorem atPanelDevice_rdata (s : State) (f : Idx) : (s.atPanelDevice f).rdata =
    if f.toNat = 0 then s.rdata else s.io.panelReadback (f.toNat - 1) := by
  obtain rfl | rfl | rfl | rfl := idx_cases f <;> rfl

theorem atPanelDevice_io (s : State) (f : Idx) :
    (s.atPanelDevice f).io = s.io.after (s.io.panelOffset f.toNat) [] [] := rfl

theorem after_answer_eq (io : Io) (n : Nat) (line line' : List LineEvent) (wire wire' : List WireEvent) :
    (io.after n line wire).answer = (io.after n line' wire').answer := by
  funext m
  rw [Io.after_answer, Io.after_answer]

/-- PINIT's turn of device `f` sees the state that `State.atPanelDevice` describes. -/
theorem AtPanel.alike {s v : State} {f : Idx} (h : AtPanel s f.toNat v) :
    Alike (s.atPanelDevice f) (v.turnBegun f) where
  quiet := h.quiet
  drop := congrArg Status.drop h.status
  pins := h.pins.trans (atPanelDevice_pins s f).symm
  rdata := h.rdata.trans (atPanelDevice_rdata s f).symm
  devs := h.devs
  answer := by rw [turnBegun_io, h.io]; exact after_answer_eq ..

theorem devinitBegun_io (s : State) (dev : Idx) (sel : Selector) : (s.devinitBegun dev sel).io = s.io := rfl

/-- A DEVINIT sees it too: DI0 finds the device not valid. -/
theorem atPanelDevice_alike {s : State} (hq : s.quiet = true) (f : Idx) (sel : Selector) :
    Alike (s.atPanelDevice f) ((s.atPanelDevice f).devinitBegun f sel) where
  quiet := hq
  drop := rfl
  pins := rfl
  rdata := rfl
  devs := congrArg (fun valid => { s.devs.panelUpTo f with valid := valid })
    (vset_eq_self (panelUpTo_valid_self s.devs f))
  answer := rfl

/-- A PINIT whose first chip that does not answer is that of `f` fails there, as a DEVINIT of `f` does. -/
theorem exec_pinit_fails {s : State} (hq : s.quiet = true) {f : Idx}
    (hc : ∀ d < f.toNat, s.io.constructs (s.io.panelOffset d) (panelSelector (BitVec.ofNat 2 d)))
    (hf : ¬ s.io.constructs (s.io.panelOffset f.toNat) (panelSelector f)) :
    ∃ x : Failure, x.Of f (s.atPanelDevice f) ∧
      (∃ path samples wire, Completes (exec .pinit s) x.pins (endStatus x.err f) x.rdata x.devs path
        (s.io.after samples (lineToPanelDevice s.io f ++ x.line) wire)) ∧
      ∃ path samples wire, Completes (exec (.devinit f (panelSelector f)) (s.atPanelDevice f)) x.pins
        (endStatus x.err f) x.rdata x.devs path (s.io.after samples x.line wire) := by
  obtain ⟨x, hx, ends⟩ := constructionFails_of_not_constructs (s := s.atPanelDevice f) f
    (by rwa [atPanelDevice_io, after_constructs])
  refine ⟨x, hx, ?_, ?_⟩
  · obtain ⟨v, hv, steps⟩ := pinitSteps_upTo hq f.isLt.le hc
    obtain ⟨path, samples, wire, failed⟩ := ends _ hv.alike
    rw [turnBegun_io, hv.io, Io.after_after] at failed
    rw [exec_eq, commandSteps, steps, drop_devices f.isLt, BitVec.ofNat_toNat, BitVec.setWidth_eq, panelEach_cons]
    exact ⟨_, _, _, ((failed.bind _).bind _).completes⟩
  · obtain ⟨path, samples, wire, failed⟩ := ends _ (atPanelDevice_alike hq f (panelSelector f))
    rw [devinitBegun_io, atPanelDevice_io, Io.after_after, List.nil_append] at failed
    rw [exec_devinit (by exact hq) f (panelSelector_ne_zero f)]
    exact ⟨_, _, _, failed.completes⟩

/-- R224: the devices before, at and after the one that fails. -/
theorem Failure.Of.panel {x : Failure} {f : Idx} {s : State} (h : x.Of f (s.atPanelDevice f)) (d : Idx) :
    (d < f → vget x.devs.valid d = true ∧ vget x.devs.addr d = 0x61 + d.setWidth 7 ∧
      vget x.devs.cache d = zeroRow ∧ vget x.pins.ldac d = true) ∧
    (d = f → vget x.devs.valid d = false) ∧
    (f < d → vget x.devs.valid d = false ∧ vget x.devs.addr d = vget s.devs.addr d ∧
      vget x.devs.cache d = vget s.devs.cache d ∧ vget x.pins.ldac d = true) := by
  obtain ⟨pvalid, paddr, pcache⟩ := panelled_device s.devs f.isLt.le d
  have others (hd : d ≠ f) := h.others d hd
  have high (hd : d ≠ f) : vget x.pins.ldac d = true := (h.latch d hd).trans (vget_replicate _ _)
  refine ⟨fun hd => ?_, fun hd => ?_, fun hd => ?_⟩
  · obtain ⟨hvalid, haddr, hcache⟩ := others (BitVec.ne_of_lt hd)
    have hlt : d.toNat < f.toNat := BitVec.lt_def.1 hd
    exact ⟨hvalid.trans (pvalid.trans (decide_eq_true hlt)), haddr.trans (paddr.trans (if_pos hlt)),
      hcache.trans (pcache.trans (if_pos hlt)), high (BitVec.ne_of_lt hd)⟩
  · rw [hd, h.valid]
    exact panelUpTo_valid_self s.devs f
  · have hne : d ≠ f := (BitVec.ne_of_lt hd).symm
    obtain ⟨hvalid, haddr, hcache⟩ := others hne
    have hlt : ¬ d.toNat < f.toNat := Nat.lt_asymm (BitVec.lt_def.1 hd)
    exact ⟨hvalid.trans (pvalid.trans (decide_eq_false hlt)), haddr.trans (paddr.trans (if_neg hlt)),
      hcache.trans (pcache.trans (if_neg hlt)), high hne⟩

theorem Completes.err_eq {o : Host.Outcome State Fault Refusal} {pins : Pins} {e : ErrCode} {who : Idx} {rdata : Byte}
    {devs : Devices} {path : Datapath} {io : Io} (h : Completes o pins (endStatus e who) rdata devs path io) {t : State}
    (ht : o = .next t) : t.status.err = e := by
  obtain ⟨t', rfl, -, hstatus, -⟩ := h
  cases ht
  rw [hstatus]
  rfl

end Sys2Proof.Machine

namespace Sys2Proof

open Machine

/-- Settles O33: PINIT fails at the first device whose chip does not answer. The host's accesses change nothing of
that, and a reset leaves no error. -/
theorem pinitStopsAtTheFailingDevice : Obligations.PinitStopsAtTheFailingDevice := by
  refine ⟨fun s t ht herr => ?_, fun s v f hq hc hv herr => ?_⟩
  · obtain ⟨t', u, ht', hu, hend⟩ := exec_beside .pinit s
    obtain rfl : t' = t := by rw [ht] at ht'; cases ht'; rfl
    obtain hbeside | ⟨-, w, rfl⟩ := hend
    case inr => exact absurd rfl herr
    rw [hbeside.status_eq] at herr ⊢
    rw [hbeside.devs_eq, hbeside.pins_eq]
    have fails : ¬ (s.setPort []).io.panelConstructs := fun h =>
      herr ((pinitBringsUpThePanel (s.setPort []) rfl h).err_eq hu)
    obtain ⟨f, hc, hf⟩ := exists_first_not_constructs fails
    obtain ⟨x, hx, ⟨_, _, _, u', hu', hpins, hstatus, -, hdevs, -⟩, -⟩ := exec_pinit_fails rfl hc hf
    obtain rfl : u' = u := by rw [hu] at hu'; cases hu'; rfl
    rw [hpins, hstatus, hdevs]
    exact ⟨hx.err, hx.panel⟩
  · have hf : ¬ s.io.constructs (s.io.panelOffset f.toNat) (panelSelector f) := fun h => herr
      ((devinitConstructsTheDevice (s.atPanelDevice f) f _ hq (panelSelector_ne_zero f)
        (by rwa [atPanelDevice_io, after_constructs])).err_eq hv)
    obtain ⟨x, -, ⟨_, _, _, t, ht, hpins, hstatus, hrdata, hdevs, -, -, hio⟩,
      ⟨_, _, _, v', hv', vpins, vstatus, vrdata, vdevs, -, -, vio⟩⟩ := exec_pinit_fails hq hc hf
    obtain rfl : v' = v := by rw [hv] at hv'; cases hv'; rfl
    refine ⟨t, x.line, ht, hpins.trans vpins.symm, hstatus.trans vstatus.symm, hrdata.trans vrdata.symm,
      hdevs.trans vdevs.symm, ?_, ?_⟩
    · simp [State.lineTrace, vio, Io.after]
    · simp [State.lineTrace, hio, Io.after]

end Sys2Proof

/-! The latches while PINIT runs (R223). -/

namespace Sys2Proof.Machine

/-- No latch but that of `dev` is low. -/
def Pins.HighBut (dev : Idx) (p : Pins) : Prop := ∀ d, d ≠ dev → vget p.ldac d = true

/-- However far the line trace has come, at most one latch is low. -/
def OneLow (p : Pins) (es : List LineEvent) : Prop :=
  ∀ n, ∃ dev, (replay p (es.take n)).HighBut dev

theorem Pins.HighBut.low_eq {p : Pins} {dev d : Idx} (h : p.HighBut dev) (hd : vget p.ldac d = false) : d = dev := by
  by_contra hne
  simp [h d hne] at hd

theorem Pins.HighBut.drive {p : Pins} {dev : Idx} (h : p.HighBut dev) {e : LineEvent} (he : e.spares dev = true) :
    (e.drive p).HighBut dev := by
  intro d hd
  cases e with
  | ldac d' v | sclLdac d' =>
    obtain rfl : d' = dev := of_decide_eq_true he
    exact (vget_vset_ne _ _ hd.symm).trans (h d hd)
  | ldacAll | reset => exact absurd he Bool.noConfusion
  | scl | sda | wait | sample => exact h d hd

theorem Pins.HighBut.replay {p : Pins} {dev : Idx} (h : p.HighBut dev) {es : List LineEvent}
    (hes : es.all (LineEvent.spares dev) = true) : (replay p es).HighBut dev := by
  induction es generalizing p with
  | nil => exact h
  | cons e es ih =>
    rw [List.all_cons, Bool.and_eq_true] at hes
    exact ih (h.drive hes.1) hes.2

theorem Pins.HighBut.oneLow {p : Pins} {dev : Idx} (h : p.HighBut dev) {es : List LineEvent}
    (hes : es.all (LineEvent.spares dev) = true) : OneLow p es := fun _ =>
  ⟨dev, h.replay (List.all_eq_true.2 fun e he => List.all_eq_true.1 hes e (List.mem_of_mem_take he))⟩

theorem OneLow.append {p : Pins} {es fs : List LineEvent} (h : OneLow p es) (g : OneLow (replay p es) fs) :
    OneLow p (es ++ fs) := by
  intro n
  obtain hn | hn := Nat.le_total n es.length
  · rw [List.take_append_of_le_length hn]
    exact h n
  · rw [List.take_append, List.take_of_length_le hn, replay_append]
    exact g _

/-- A construction leaves its latch high (R190, DI23), so that the next one finds all of them high. -/
theorem replay_lineOfDevinit {p : Pins} (h : ∀ d, vget p.ldac d = true) (dev : Idx) (rb : Byte) (sel : Selector) :
    ∀ d, vget (replay p (lineOfDevinit dev rb sel)).ldac d = true := by
  have lowered : (replay p (lineToZeroing dev rb sel ++ lineOfZeroing sel 4 ++ [.ldac dev false, .wait .h])).HighBut dev :=
    Pins.HighBut.replay (fun d _ => h d) (by simp [LineEvent.spares])
  have split : lineOfDevinit dev rb sel =
      lineToZeroing dev rb sel ++ lineOfZeroing sel 4 ++ [.ldac dev false, .wait .h] ++ [.ldac dev true] := by
    simp [lineOfDevinit]
  intro d
  rw [split, replay_append]
  by_cases hd : d = dev
  · rw [hd]; exact vget_vset_self _ _ _
  · exact (vget_vset_ne _ _ (Ne.symm hd)).trans (lowered d hd)

@[simp] theorem lineOfDevinit_spares (dev : Idx) (rb : Byte) (sel : Selector) :
    (lineOfDevinit dev rb sel).all (LineEvent.spares dev) = true := by
  simp [lineOfDevinit, LineEvent.spares]

/-- PI0 raises the latches, and every device in turn leaves its own high. -/
theorem lineOfPanelled_oneLow (p : Pins) (io : Io) (n : Nat) :
    ∃ rest, lineOfPanelled io n = .ldacAll :: rest ∧ OneLow (LineEvent.ldacAll.drive p) rest ∧
      ∀ d, vget (replay (LineEvent.ldacAll.drive p) rest).ldac d = true := by
  induction n with
  | zero =>
    exact ⟨[], rfl, Pins.HighBut.oneLow (dev := 0) (fun _ _ => vget_replicate _ _) rfl, fun _ => vget_replicate _ _⟩
  | succ n ih =>
    obtain ⟨rest, hline, oneLow, high⟩ := ih
    refine ⟨rest ++ lineOfDevinit (BitVec.ofNat 2 n) _ _, by rw [lineOfPanelled_succ, hline]; rfl,
      oneLow.append (Pins.HighBut.oneLow (fun d _ => high d) (lineOfDevinit_spares _ _ _)), fun d => ?_⟩
    rw [replay_append]
    exact replay_lineOfDevinit high _ _ _ d

/-- The line trace of a PINIT, however it ends: whole devices, and then the one it ends at. -/
theorem exec_pinit_line {s t : State} (hq : s.quiet = true) (ht : exec .pinit s = .next t) :
    ∃ n dev line, t.lineTrace = s.lineTrace ++ (lineOfPanelled s.io n ++ line) ∧
      line.all (LineEvent.spares dev) = true := by
  by_cases hc : s.io.panelConstructs
  · obtain ⟨t', ht', -, -, -, -, -, -, hio⟩ := pinitBringsUpThePanel s hq hc
    obtain rfl : t' = t := by rw [ht] at ht'; cases ht'; rfl
    refine ⟨4, 0, [], ?_, rfl⟩
    simp [State.lineTrace, hio, Io.after, lineOfPanelled, List.range_succ]
  · obtain ⟨f, hbefore, hf⟩ := exists_first_not_constructs hc
    obtain ⟨x, hx, ⟨_, _, _, t', ht', -, -, -, -, -, -, hio⟩, -⟩ := exec_pinit_fails hq hbefore hf
    obtain rfl : t' = t := by rw [ht] at ht'; cases ht'; rfl
    refine ⟨f.toNat, f, x.line, ?_, hx.line⟩
    simp [State.lineTrace, hio, Io.after, lineToPanelDevice_eq]

end Sys2Proof.Machine

namespace Sys2Proof

open Machine

/-- Settles O34: PI0 raises every latch, and from there on only the latch of the device in turn moves. -/
theorem pinitHoldsAtMostOneLatchLow : Obligations.PinitHoldsAtMostOneLatchLow := by
  intro s t hs ht
  obtain ⟨u, hu, hbeside⟩ := exec_beside_quiet hs ht
  obtain ⟨n, dev, line, hline, spares⟩ := exec_pinit_line (s := s.setPort []) rfl hu
  obtain ⟨rest, hpanel, oneLow, high⟩ := lineOfPanelled_oneLow s.pins (s.setPort []).io n
  have whole := oneLow.append (Pins.HighBut.oneLow (fun d _ => high d) spares)
  refine ⟨.ldacAll :: (rest ++ line), ?_, by simp, fun k hk _ d e hd he => ?_⟩
  · rw [hbeside.lineTrace_eq, hline, hpanel]
    rfl
  · obtain ⟨k, rfl⟩ := Nat.exists_eq_add_of_le' hk
    obtain ⟨low, others⟩ := whole k
    exact (others.low_eq hd).trans (others.low_eq he).symm

end Sys2Proof

/-! A word that does not decode (R244). -/

namespace Sys2Proof

open Machine

/-- Settles O8: between acceptance and the end with ILLEGAL there is nothing but the host's turn. -/
theorem illegalWordCompletes : Obligations.IllegalWordCompletes := by
  intro s w es e hb hp hq hw
  have run : step s = illegalCommand w (s.setPort es) := by
    simp only [step_idle hb, idleStep, hp, if_true, runCommand, hw]
  rw [run, illegalCommand, raise_quiet (by exact hq)]
  exact completes_endWith (v := (s.setPort es).accept w) rfl .illegal 0

end Sys2Proof

/-! How a construction ends in an error, with the port left alone (R195, R247). -/

namespace Sys2Proof.Machine

/-- R195: what keeps a chip from being constructed at selector `sel`, in the order of DEVINIT's steps. -/
inductive Io.Fails (io : Io) (sel : Selector) : Prop
  | discovery {n : Nat} (hn : n < 3) (nack : io.firstNack 0 n)
  | mismatch (hd : io.discovered 0) (hv : readbackValid (io.readback 0) = false)
  | readdressing (hd : io.discovered 0) (hv : readbackValid (io.readback 0) = true)
      (hne : copyA (io.readback 0) ≠ sel) {n : Nat} (hn : n < 4) (nack : io.firstNack 11 n)
  | zeroing (hd : io.discovered 0) (hv : readbackValid (io.readback 0) = true)
      (acked : ∀ m, 11 ≤ m → m < samplesToZeroing (io.readback 0) sel → io.answer m = false)
      {k j : Nat} (hk : k < 4) (hj : j < 4) (nack : io.firstNack (samplesToZeroing (io.readback 0) sel) (4 * k + j))

/-- The checks from `base` to `top` are acknowledged, or one is the first that is not. -/
theorem Io.acked_between (io : Io) {base top : Nat} (h : base ≤ top) :
    (∀ m, base ≤ m → m < top → io.answer m = false) ∨ ∃ n, base + n < top ∧ io.firstNack base n := by
  obtain acked | ⟨n, hn, nack⟩ := io.acked_or_firstNack base (top - base)
  · refine .inl fun m hm htop => ?_
    simpa [Nat.add_sub_cancel' hm] using acked (m - base) (by omega)
  · exact .inr ⟨n, by omega, nack⟩

theorem Io.fails_of_not_constructs {io : Io} {sel : Selector} (h : ¬ io.constructs 0 sel) : io.Fails sel := by
  obtain hd | ⟨n, hn, nack⟩ := io.acked_or_firstNack 0 3
  case inr => exact .discovery hn nack
  cases hv : readbackValid (io.readback 0) with
  | false => exact .mismatch hd hv
  | true =>
    have hbase : 11 ≤ samplesToZeroing (io.readback 0) sel := by unfold samplesToZeroing; split <;> omega
    obtain readdressed | ⟨n, hn, nack⟩ := io.acked_between hbase
    case inr =>
      have hne : copyA (io.readback 0) ≠ sel := fun e => by simp [samplesToZeroing, e] at hn
      rw [samplesToZeroing_of_ne hne] at hn
      exact .readdressing hd hv hne (by omega) nack
    obtain zeroed | ⟨n, hn, nack⟩ := io.acked_between (Nat.le_add_right (samplesToZeroing (io.readback 0) sel) 16)
    case inr =>
      exact .zeroing hd hv readdressed (k := n / 4) (j := n % 4) (by omega) (by omega) (by rwa [Nat.div_add_mod])
    refine absurd ⟨hd, hv, fun j h11 hj => ?_⟩ h
    rw [Nat.zero_add]
    obtain hlt | hle := Nat.lt_or_ge j (samplesToZeroing (io.readback 0) sel)
    exacts [readdressed j h11 hlt, zeroed j hle hj]

/-- R247: an abort with the code `e` leaves the pins `p`, the bus held after NO_ACK and idle after ADDR_MISMATCH. -/
def abortLeaves (e : ErrCode) (p : Pins) : Prop :=
  e = .noAck ∧ p.scl = false ∧ p.sda = false ∨ e = .addrMismatch ∧ p.scl = true ∧ p.sda = true

theorem abortLeaves_held {p : Pins} (scl : p.scl = false := by rfl) (sda : p.sda = false := by rfl) :
    abortLeaves .noAck p :=
  .inl ⟨rfl, scl, sda⟩

theorem abortLeaves_code {e : ErrCode} {p : Pins} (h : abortLeaves e p) : e = .noAck ∨ e = .addrMismatch :=
  h.imp And.left And.left

/-- A part of a command in turn `turn` of PI1 that ends it by an abort of the device `who` (R245, R246). -/
def EndsInAbort (who turn : Idx) (r : Except State State) : Prop :=
  ∃ e pins rdata devs path io,
    Ends r pins (endStatus e who) rdata devs path io ∧ abortLeaves e pins ∧ path.dloop = turn

theorem Ends.inAbort {r : Except State State} {pins : Pins} {e : ErrCode} {who : Idx} {rdata : Byte} {devs : Devices}
    {path : Datapath} {io : Io} (h : Ends r pins (endStatus e who) rdata devs path io) (lines : abortLeaves e pins)
    {turn : Idx} (dloop : path.dloop = turn := by rfl) : EndsInAbort who turn r :=
  ⟨e, pins, rdata, devs, path, io, h, lines, dloop⟩

theorem EndsInAbort.bind {who turn : Idx} {r : Except State State} (h : EndsInAbort who turn r)
    (f : State → Except State State) : EndsInAbort who turn (r >>= f) := by
  obtain ⟨e, pins, rdata, devs, path, io, ends, rest⟩ := h
  exact ⟨e, pins, rdata, devs, path, io, ends.bind f, rest⟩

/-- A construction whose chip does not answer. -/
theorem constructDevice_aborts {s : State} (hq : s.quiet = true) (hdrop : s.status.drop = false) (dev : Idx)
    {sel : Selector} (h : ¬ s.io.constructs 0 sel) :
    EndsInAbort dev s.path.dloop (constructDevice Config.params.check dev sel s) := by
  cases Io.fails_of_not_constructs h with
  | discovery hn nack =>
    have ends := constructDevice_ends_discovery hq Config.params.check dev sel hdrop hn nack
    rw [EndsUnacked] at ends
    exact ends.inAbort abortLeaves_held
  | mismatch hd hv =>
    rw [constructDevice_mismatched hq _ dev sel hd hv]
    exact (ends_endWith (v := (s.afterDiscovery dev).goto (.di 9)) hdrop rfl rfl rfl rfl rfl).inAbort
      (.inr ⟨rfl, rfl, rfl⟩)
  | readdressing hd hv hne hn nack =>
    exact (constructDevice_ends_readdressing hq _ dev sel hd hv hdrop hne hn nack).inAbort abortLeaves_held
  | zeroing hd hv acked hk hj nack =>
    exact (constructDevice_ends_zeroing hq _ dev sel hd hv hdrop hk hj acked nack).inAbort abortLeaves_held

/-- A PINIT one of whose chips does not answer ends in the turn of the first such device. -/
theorem pinitSteps_aborts {s : State} (hq : s.quiet = true) (h : ¬ s.io.panelConstructs) :
    ∃ f, EndsInAbort f f (pinitSteps Config.params.check (s.accept (encode .pinit))) := by
  obtain ⟨f, before, fails⟩ := exists_first_not_constructs h
  obtain ⟨v, hv, steps⟩ := pinitSteps_upTo hq f.isLt.le before
  have turn : EndsInAbort f f (constructDevice Config.params.check f (panelSelector f) (v.turnBegun f)) :=
    constructDevice_aborts (s := v.turnBegun f) hv.quiet (congrArg Status.drop hv.status) f
      (by rwa [turnBegun_io, hv.io, after_constructs])
  rw [steps, drop_devices f.isLt, BitVec.ofNat_toNat, BitVec.setWidth_eq, panelEach_cons]
  exact ⟨f, (turn.bind _).bind _⟩

end Sys2Proof.Machine

/-! The error codes (R241 to R247), whatever the host does. -/

namespace Sys2Proof.Machine

/-- R241: the codes with which a command can be aborted once its first step has let it run. -/
def abortsWith (i : Instr) (e : ErrCode) : Prop :=
  match i with
  | .write _ | .writel _ _ | .read _ | .stop => False
  | .start _ _ | .chkack | .setch _ _ _ | .pset _ _ _ => e = .noAck
  | .devinit _ _ | .pinit => e = .noAck ∨ e = .addrMismatch

/-- R243: the operands that the first step of a command rejects when it finds the per-device registers `c`. -/
def rejectedWith (i : Instr) (c : Devices) : Prop :=
  match i with
  | .start _ _ | .write _ | .writel _ _ | .read _ | .chkack | .stop | .pinit => False
  | .setch dev ch value => 3 < ch.toNat ∨ 4095 < value.toNat ∨ vget c.valid dev = false
  | .devinit _ sel => sel = 0
  | .pset voice _ value => 3 < voice.toNat ∨ 4095 < value.toNat ∨ vget c.valid (voice.extractLsb' 0 2) = false

/-- R246: the device that ERR_DEV records when a command ends with an error, for PINIT in turn `turn` of PI1. -/
def errDevOf (i : Instr) (turn : Idx) : Idx :=
  match i with
  | .start _ _ | .write _ | .writel _ _ | .read _ | .chkack | .stop => 0
  | .setch dev _ _ | .devinit dev _ => dev
  | .pset voice _ _ => if 3 < voice.toNat then 0 else voice.extractLsb' 0 2
  | .pinit => turn

/-- How the command `i`, which found the state `s`, has ended in `t`. -/
inductive Ended (i : Instr) (s t : State) : Prop
  | success (err : t.status.err = .ok) (errDev : t.status.errDev = 0)
  | abort (err : abortsWith i t.status.err) (errDev : t.status.errDev = errDevOf i t.path.dloop)
      (lines : abortLeaves t.status.err t.pins)
  | reject (err : t.status.err = .reject) (errDev : t.status.errDev = errDevOf i t.path.dloop)
      (why : rejectedWith i s.devs) (pins : t.pins = s.pins) (rdata : t.rdata = s.rdata) (devs : t.devs = s.devs)

/-! From the registers of a command's end. -/

section

variable {i : Instr} {s t : State} {pins : Pins} {e : ErrCode} {who : Idx} {rdata : Byte} {devs : Devices}
  {path : Datapath} {io : Io}

theorem Completes.registers {o : Host.Outcome State Fault Refusal} {status : Status}
    (h : Completes o pins status rdata devs path io) (ht : o = .next t) :
    t.pins = pins ∧ t.status = status ∧ t.rdata = rdata ∧ t.devs = devs ∧ t.path = path := by
  obtain ⟨t', rfl, hpins, hstatus, hrdata, hdevs, hpath, -, -⟩ := h
  cases ht
  exact ⟨hpins, hstatus, hrdata, hdevs, hpath⟩

theorem Completes.success (h : Completes (exec i s) pins (endStatus .ok 0) rdata devs path io)
    (ht : exec i s = .next t) : Ended i s t := by
  obtain ⟨-, hstatus, -⟩ := h.registers ht
  exact .success (congrArg Status.err hstatus) (congrArg Status.errDev hstatus)

theorem Completes.abort (h : Completes (exec i s) pins (endStatus e who) rdata devs path io)
    (ht : exec i s = .next t) (he : abortsWith i e) (hwho : who = errDevOf i path.dloop)
    (hlines : abortLeaves e pins) : Ended i s t := by
  obtain ⟨rfl, hstatus, -, -, rfl⟩ := h.registers ht
  have err : t.status.err = e := congrArg Status.err hstatus
  exact .abort (err ▸ he) ((congrArg Status.errDev hstatus).trans hwho) (err ▸ hlines)

theorem Completes.reject (h : Completes (exec i s) s.pins (endStatus .reject who) s.rdata s.devs path io)
    (ht : exec i s = .next t) (why : rejectedWith i s.devs) (hwho : who = errDevOf i path.dloop) :
    Ended i s t := by
  obtain ⟨hpins, hstatus, hrdata, hdevs, rfl⟩ := h.registers ht
  exact .reject (congrArg Status.err hstatus) ((congrArg Status.errDev hstatus).trans hwho) why hpins hrdata hdevs

/-- A primitive that ends with an acknowledge check, by its sample. -/
theorem Completes.check {sample : Bool}
    (h : Completes (exec i s) s.pins.held (endStatus (if sample then .noAck else .ok) 0) rdata devs path io)
    (ht : exec i s = .next t) (he : abortsWith i .noAck) (hdev : 0 = errDevOf i path.dloop) : Ended i s t := by
  cases sample
  · exact h.success ht
  · exact h.abort ht he hdev abortLeaves_held

theorem EndsInAbort.ended {r : Except State State} {turn : Idx} (h : EndsInAbort who turn r) (hr : exec i s = finish r)
    (ht : exec i s = .next t) (he : ∀ e, e = .noAck ∨ e = .addrMismatch → abortsWith i e)
    (hwho : who = errDevOf i turn) : Ended i s t := by
  obtain ⟨e, pins, rdata, devs, path, io, ends, lines, rfl⟩ := h
  exact Completes.abort (hr ▸ ends.completes) ht (he e (abortLeaves_code lines)) hwho lines

end

/-! The commands with the port left alone. -/

section

variable {s t : State} (hq : s.quiet = true)
include hq

theorem exec_setch_ended {dev : Idx} {ch : BitVec 4} {value : BitVec 16} (ht : exec (.setch dev ch value) s = .next t) :
    Ended (.setch dev ch value) s t := by
  by_cases why : rejectedWith (.setch dev ch value) s.devs
  · exact (Sys2Proof.setchRejects s dev ch value hq why).reject ht why rfl
  obtain ⟨hch, hvalue, hvalid⟩ : ch.toNat ≤ 3 ∧ value.toNat ≤ 4095 ∧ vget s.devs.valid dev = true := by
    simpa [rejectedWith] using why
  obtain acked | ⟨n, hn, nack⟩ := s.io.acked_or_firstNack 0 4
  · exact (setchWritesTheChannel s dev ch value hq hch hvalue hvalid (by simpa using acked)).success ht
  · exact (setchEndsAtTheFirstNack s dev ch value n hq hch hvalue hvalid hn nack).abort ht rfl rfl abortLeaves_held

theorem exec_pset_ended {voice : BitVec 4} {role : Role} {value : BitVec 16}
    (ht : exec (.pset voice role value) s = .next t) : Ended (.pset voice role value) s t := by
  by_cases why : rejectedWith (.pset voice role value) s.devs
  · exact (psetRejects s voice role value hq why).reject ht why rfl
  obtain ⟨hvoice, hvalue, hvalid⟩ :
      voice.toNat ≤ 3 ∧ value.toNat ≤ 4095 ∧ vget s.devs.valid (voice.extractLsb' 0 2) = true := by
    simpa [rejectedWith] using why
  obtain acked | ⟨n, hn, nack⟩ := s.io.acked_or_firstNack 0 4
  · exact (psetWritesTheVoice s voice role value hq hvoice hvalue hvalid (by simpa using acked)).success ht
  · exact (psetEndsAtTheFirstNack s voice role value n hq hvoice hvalue hvalid hn nack).abort ht rfl
      (if_neg hvoice.not_gt).symm abortLeaves_held

theorem exec_devinit_ended {dev : Idx} {sel : Selector} (ht : exec (.devinit dev sel) s = .next t) :
    Ended (.devinit dev sel) s t := by
  by_cases hsel : sel = 0
  · subst hsel
    exact (devinitRejectsSelectorZero s dev hq).reject ht rfl rfl
  by_cases hc : s.io.constructs 0 sel
  · exact (devinitConstructsTheDevice s dev sel hq hsel hc).success ht
  · exact (constructDevice_aborts (s := s.devinitBegun dev sel) hq rfl dev hc).ended (exec_devinit hq dev hsel) ht
      (fun _ => id) rfl

theorem exec_pinit_ended (ht : exec .pinit s = .next t) : Ended .pinit s t := by
  by_cases hc : s.io.panelConstructs
  · exact (pinitBringsUpThePanel s hq hc).success ht
  · obtain ⟨f, steps⟩ := pinitSteps_aborts hq hc
    exact steps.ended (exec_eq .pinit s) ht (fun _ => id) rfl

theorem exec_ended_quiet {i : Instr} (ht : exec i s = .next t) : Ended i s t := by
  cases i with
  | start addr rd => exact (startResult s addr rd hq).check ht rfl rfl
  | write b => exact (writeResult s b hq).success ht
  | writel b dev => exact (writelResult s b dev hq).success ht
  | read ack => exact (readResult s ack hq).1.success ht
  | chkack => exact (chkackResult s hq).check ht rfl rfl
  | stop => exact (stopResult s hq).success ht
  | devinit dev sel => exact exec_devinit_ended hq ht
  | setch dev ch value => exact exec_setch_ended hq ht
  | pinit => exact exec_pinit_ended hq ht
  | pset voice role value => exact exec_pset_ended hq ht

end

/-! Whatever the host does. -/

/-- The host's accesses tell of nothing that `Ended` speaks of. -/
theorem Ended.beside {i : Instr} {s t u : State} (h : Ended i (s.setPort []) u) (hb : Beside s.io.port u t) :
    Ended i s t := by
  obtain ⟨-, _, _, _, -, -, rfl⟩ := hb
  cases h with
  | success err errDev => exact .success err errDev
  | abort err errDev lines => exact .abort err errDev lines
  | reject err errDev why pins rdata devs => exact .reject err errDev why pins rdata devs

/-- After a reset ERR and ERR_DEV read 0 (R46). -/
theorem exec_ended {i : Instr} {s t : State} (ht : exec i s = .next t) : Ended i s t := by
  obtain ⟨t', u, ht', hu, hend⟩ := exec_beside i s
  obtain rfl : t' = t := by rw [ht] at ht'; cases ht'; rfl
  obtain hbeside | ⟨-, v, rfl⟩ := hend
  · exact (exec_ended_quiet (s := s.setPort []) rfl hu).beside hbeside
  · exact .success rfl rfl

theorem Ended.err {i : Instr} {s t : State} (h : Ended i s t) :
    t.status.err = .ok ∨ abortsWith i t.status.err ∨ t.status.err = .reject ∧ rejectedWith i s.devs := by
  cases h with
  | success err => exact .inl err
  | abort err => exact .inr (.inl err)
  | reject err _ why => exact .inr (.inr ⟨err, why⟩)

theorem Ended.errDev_of_ok {i : Instr} {s t : State} (h : Ended i s t) (he : t.status.err = .ok) :
    t.status.errDev = 0 := by
  cases h with
  | success _ errDev => exact errDev
  | abort _ _ lines => simp [abortLeaves, he] at lines
  | reject err => simp [he] at err

theorem Ended.errDev_of_error {i : Instr} {s t : State} (h : Ended i s t) (he : t.status.err ≠ .ok) :
    t.status.errDev = errDevOf i t.path.dloop := by
  cases h with
  | success err => exact absurd err he
  | abort _ errDev => exact errDev
  | reject _ errDev => exact errDev

/-- A word that does not decode ends by a reset, or with no device in ERR_DEV and nothing moved (R244, R246). -/
theorem runCommand_illegal {w : Word} {e : DecodeReject} {s t : State} (hw : decode w = .error e)
    (ht : runCommand w s = .next t) : (∃ v, t = State.hardReset v) ∨
      t.status.errDev = 0 ∧ t.pins = s.pins ∧ t.rdata = s.rdata ∧ t.devs = s.devs := by
  obtain ⟨t', ht', hend⟩ := illegalCommand_beside w s
  obtain rfl : t' = t := by simpa [runCommand, hw, ht'] using ht
  obtain ⟨-, hreset⟩ | hbeside := hend
  · exact .inl hreset
  · refine .inr ⟨?_, hbeside.pins_eq, hbeside.rdata_eq, hbeside.devs_eq⟩
    rw [hbeside.status_eq]
    rfl

end Sys2Proof.Machine

namespace Sys2Proof

open Machine

/-- Settles O46: a command succeeds, or it is aborted or rejected as `abortsWith` and `rejectedWith` list. -/
theorem commandsEndWithTheirCodes : Obligations.CommandsEndWithTheirCodes := by
  intro i s t ht
  have codes := (exec_ended ht).err
  cases i <;> simpa [abortsWith, rejectedWith, or_assoc] using codes

/-- Settles O47: every error names the device of the failing step, and a reset leaves ERR_DEV 0. -/
theorem errDevNamesTheDevice : Obligations.ErrDevNamesTheDevice := by
  refine ⟨fun i s t ht => ⟨(exec_ended ht).errDev_of_ok, fun he => ?_⟩, fun w e s t hw ht => ?_⟩
  · have device := (exec_ended ht).errDev_of_error he
    cases i <;> exact device
  · obtain ⟨v, rfl⟩ | ⟨errDev, -⟩ := runCommand_illegal hw ht
    exacts [rfl, errDev]

/-- Settles O48: an abort leaves the lines as its code says, and REJECT and ILLEGAL come before any micro-op. -/
theorem linesAfterAnAbort : Obligations.LinesAfterAnAbort := by
  refine ⟨fun i s t ht => ?_, fun w e s t hw ht he => ?_⟩
  · cases exec_ended ht with
    | success err => simp [err]
    | abort err errDev lines =>
      obtain ⟨he, scl, sda⟩ | ⟨he, scl, sda⟩ := lines <;> simp [he, scl, sda]
    | reject err errDev why pins rdata devs => simp [err, pins, rdata, devs]
  · obtain ⟨v, rfl⟩ | ⟨-, unchanged⟩ := runCommand_illegal hw ht
    · cases he
    · exact unchanged

end Sys2Proof

/-! A reset at the first turn of the host in a command (R282). -/

namespace Sys2Proof.Machine

/-- A command that goes the way of the one with the port left alone has met none of the host's resets. -/
theorem Beside.rst_mem_port {es : List PortEvent} {u s : State} (h : Beside es u s) (hr : PortEvent.rst ∈ es) :
    PortEvent.rst ∈ s.io.port := by
  obtain ⟨-, pre, post, reads, rfl, hpre, rfl⟩ := h
  exact (List.mem_append.1 hr).resolve_left hpre

section

variable {s : State} {es : List PortEvent} (hp : s.io.port = .rst :: es)
include hp

theorem serve_rst : serve s = .error (s.setPort es).hardReset := by
  rw [serve, hp, serveList]

theorem raise_rst (e : ErrCode) (who : Idx) : raise e who s = .error (s.setPort es).hardReset := by
  rw [raise, serve_rst hp, run_error_bind]

theorem runOps_rst (m : MicroOp) (ms : List MicroOp) : runOps (m :: ms) s = .error (s.setPort es).hardReset := by
  rw [runOps_cons, runOp, serve_rst hp, run_error_bind, run_error_bind]

/-- A byte loop begins with the body of bit 7. -/
theorem forBits_rst {body : Nat → List MicroOp} {m : MicroOp} {ms : List MicroOp} (hbody : body 7 = m :: ms) :
    forBits body s = .error (s.setPort es).hardReset := by
  rw [forBits, bitsFrom, hbody, runOps_rst (by exact hp), run_error_bind]
  rfl

theorem setchSteps_rst (dev : Idx) (ch : BitVec 4) (value : BitVec 16) :
    setchSteps dev ch value s = .error (s.setPort es).hardReset := by
  rw [setchSteps, raise_rst (by exact hp), serve_rst (by exact hp), run_error_bind]
  exact ite_self _

theorem psetSteps_rst (voice : BitVec 4) (role : Role) (value : BitVec 16) :
    psetSteps voice role value s = .error (s.setPort es).hardReset := by
  rw [psetSteps, raise_rst (by exact hp), serve_rst (by exact hp), run_error_bind]
  exact ite_self _

theorem devinitSteps_rst (c : Config.CheckBits) (dev : Idx) (sel : Selector) :
    devinitSteps c dev sel s = .error (s.setPort es).hardReset := by
  rw [devinitSteps, raise_rst (by exact hp), serve_rst (by exact hp), run_error_bind]
  exact ite_self _

/-- Every command gives the host a turn before it does anything else. -/
theorem commandSteps_rst (i : Instr) : commandSteps i s = .error (s.setPort es).hardReset := by
  cases i with
  | start addr rd => rw [commandSteps, busStart, condStartOps, runOps_rst (by exact hp)]; rfl
  | write byte => rw [commandSteps, busWrite, forBits_rst (by exact hp) rfl]; rfl
  | writel byte dev => rw [commandSteps, busWriteLatch, forBits_rst (by exact hp) rfl]; rfl
  | read ack => rw [commandSteps, busRead, runOps_rst (by exact hp)]; rfl
  | chkack => rw [commandSteps, busCheckAck, checkAckOps, runOps_rst (by exact hp)]; rfl
  | stop => rw [commandSteps, busStop, stopOps, runOps_rst (by exact hp)]; rfl
  | devinit dev sel => exact devinitSteps_rst hp _ dev sel
  | setch dev ch value => exact setchSteps_rst hp dev ch value
  | pinit => rw [commandSteps, pinitSteps, runOps_rst (by exact hp)]; rfl
  | pset voice role value => exact psetSteps_rst hp voice role value

theorem exec_rst (i : Instr) : exec i s = .next (s.setPort es).hardReset := by
  rw [exec_eq, commandSteps_rst (by exact hp)]
  rfl

end

end Sys2Proof.Machine

namespace Sys2Proof

open Machine

/-- Settles O13: a command follows the one with the port left alone or is cut by the reset, and only a cut one can
have used up the port; its first action is already behind a turn of the host. -/
theorem resetCutsACommand : Obligations.ResetCutsACommand := by
  intro i s n hp
  obtain ⟨t, u, ht, -, hend⟩ := exec_beside i s
  refine ⟨t, ht, fun hport => ?_, fun hn => ?_⟩
  · obtain hbeside | ⟨-, v, rfl⟩ := hend
    · have unmet := hbeside.rst_mem_port (by simp [hp])
      simp [hport] at unmet
    · exact hardReset_isReset v
  · subst hn
    rw [exec_rst hp] at ht
    cases ht
    rfl

end Sys2Proof

/-! The least cycle counts (R310, R311). -/

namespace Sys2Proof.Machine

section

variable (q h : Nat)

theorem cyclesOf_append (es fs : List LineEvent) :
    cyclesOf q h (es ++ fs) = cyclesOf q h es + cyclesOf q h fs := by
  induction es with
  | nil => simp [cyclesOf]
  | cons e es ih => simp [cyclesOf, ih, Nat.add_assoc]

theorem cyclesOf_lineOfCondStart : cyclesOf q h lineOfCondStart = 4 + 2 * q + 2 * h := by
  simp only [lineOfCondStart, cyclesOf, LineEvent.cycles]
  omega

theorem cyclesOf_lineOfCell (x : Bool) : cyclesOf q h (lineOfCell x) = 4 + 2 * q + h := by
  simp only [lineOfCell, cyclesOf, LineEvent.cycles]
  omega

/-- The latch falls in the cycle of the clock (R143). -/
theorem cyclesOf_lineOfLatchCell (x : Bool) (d : Idx) : cyclesOf q h (lineOfLatchCell x d) = 4 + 2 * q + h := by
  simp only [lineOfLatchCell, cyclesOf, LineEvent.cycles]
  omega

theorem cyclesOf_lineOfReadCell (b : Bool) : cyclesOf q h (lineOfReadCell b) = 3 + 2 * q + h := by
  simp only [lineOfReadCell, cyclesOf, LineEvent.cycles]
  omega

theorem cyclesOf_lineOfCheckAck (b : Bool) : cyclesOf q h (lineOfCheckAck b) = 5 + 2 * q + h := by
  simp only [lineOfCheckAck, cyclesOf, LineEvent.cycles]
  omega

theorem cyclesOf_lineOfStop : cyclesOf q h lineOfStop = 2 + 2 * h := by
  simp only [lineOfStop, cyclesOf, LineEvent.cycles]
  omega

theorem cyclesOf_lineOfHighBits (b : Byte) : cyclesOf q h (lineOfHighBits b) = 7 * (4 + 2 * q + h) := by
  simp only [lineOfHighBits, cyclesOf_append, cyclesOf_lineOfCell]
  omega

theorem cyclesOf_lineOfWrite (b : Byte) : cyclesOf q h (lineOfWrite b) = 8 * (4 + 2 * q + h) := by
  rw [lineOfWrite, cyclesOf_append, cyclesOf_lineOfHighBits, cyclesOf_lineOfCell]
  omega

theorem cyclesOf_lineOfWriteLatch (b : Byte) (d : Idx) :
    cyclesOf q h (lineOfWriteLatch b d) = 8 * (4 + 2 * q + h) := by
  rw [lineOfWriteLatch, cyclesOf_append, cyclesOf_lineOfHighBits, cyclesOf_lineOfLatchCell]
  omega

theorem cyclesOf_lineOfRead (r : Byte) (ack : Bool) : cyclesOf q h (lineOfRead r ack) = 29 + 18 * q + 9 * h := by
  simp only [lineOfRead, List.cons_append, cyclesOf, LineEvent.cycles, cyclesOf_append, cyclesOf_lineOfReadCell,
    cyclesOf_lineOfCell]
  omega

theorem cyclesOf_lineOfStart (a : Byte) (b : Bool) : cyclesOf q h (lineOfStart a b) = 41 + 20 * q + 11 * h := by
  rw [lineOfStart, cyclesOf_append, cyclesOf_append, cyclesOf_lineOfCondStart, cyclesOf_lineOfWrite,
    cyclesOf_lineOfCheckAck]
  omega

theorem cyclesOf_lineOfAckedByte (b : Byte) :
    cyclesOf q h (lineOfAckedByte b) = 8 * (4 + 2 * q + h) + (5 + 2 * q + h) := by
  rw [lineOfAckedByte, cyclesOf_append, cyclesOf_lineOfWrite, cyclesOf_lineOfCheckAck]

theorem cyclesOf_lineOfChannelWrite (a : Byte) (k : Idx) (v : ChanValue) :
    cyclesOf q h (lineOfChannelWrite a k v) =
      (41 + 20 * q + 11 * h) + 3 * (8 * (4 + 2 * q + h) + (5 + 2 * q + h)) + (2 + 2 * h) := by
  simp only [lineOfChannelWrite, cyclesOf_append, cyclesOf_lineOfStart, cyclesOf_lineOfAckedByte, cyclesOf_lineOfStop]
  omega

end

/-- A command that completes, by the cycles of what it has put on the line trace. -/
theorem Completes.cycles {o : Host.Outcome State Fault Refusal} {pins : Pins} {status : Status} {rdata : Byte}
    {devs : Devices} {path : Datapath} {s : State} {n q h c : Nat} {line : List LineEvent} {wire : List WireEvent}
    (hc : Completes o pins status rdata devs path (s.io.after n line wire)) (hcycles : cyclesOf q h line = c) :
    ∃ t es, o = .next t ∧ t.lineTrace = s.lineTrace ++ es ∧ cyclesOf q h es = c := by
  obtain ⟨t, ht, -, -, -, -, -, -, hio⟩ := hc
  refine ⟨t, line, ht, ?_, hcycles⟩
  simp [State.lineTrace, hio, Io.after]

end Sys2Proof.Machine

namespace Sys2Proof

open Machine

/-- Settles O57: each command puts the tokens of its definition on the line trace, and these take the cycles of R311. -/
theorem primitiveCycleCounts : Obligations.PrimitiveCycleCounts := by
  intro s q h hq takes
  refine ⟨cyclesOf_lineOfCondStart q h, fun addr rd => ?_, fun b => ?_, fun b d => ?_, fun ack => ?_, ?_, ?_,
    fun dev ch value hch hvalue hvalid ha => ?_⟩
  · exact (startResult s addr rd hq).cycles (cyclesOf_lineOfStart q h _ _)
  · exact (writeResult s b hq).cycles (cyclesOf_lineOfWrite q h b)
  · exact (writelResult s b d hq).cycles (cyclesOf_lineOfWriteLatch q h b d)
  · exact (readResult s ack hq).1.cycles (cyclesOf_lineOfRead q h _ ack)
  · exact (chkackResult s hq).cycles (cyclesOf_lineOfCheckAck q h _)
  · exact (stopResult s hq).cycles (cyclesOf_lineOfStop q h)
  · exact (setchWritesTheChannel s dev ch value hq hch hvalue hvalid ha).cycles
      (cyclesOf_lineOfChannelWrite q h _ _ _)

end Sys2Proof
